-- ==== Sys2Proof/Word.lean ====
section
/-! DEFINITION. The word types of the block (00_scope.md R11): bytes, 16-bit lengths and 32-bit words. -/

namespace Sys2Proof

/-- A byte, 0..255 (R11). -/
abbrev Byte := BitVec 8

/-- A 16-bit length register or bus address. -/
abbrev Half := BitVec 16

/-- A u32 (R11): a register word, a bus data word, a CRC. -/
abbrev Word := BitVec 32

end Sys2Proof
end

