-- ==== Sys2Proof/Config.lean ====
section
/-! DEFINITION. The implementation parameters of 00_scope.md R9 and the free values of the model.

What the spec leaves OPEN and what it calls arbitrary (a draw) is an `opaque` constant without a body:
no proof can see its value, so a statement about it holds whatever the value is. -/

namespace Sys2Proof

/-- LAYOUT (44_patch_codec.md R166): where the 121 patch fields lie in the 0x88-byte payload.
`off[i]` is `LAYOUT.off(i)`, and for a field of kind FB it is `LAYOUT.lo(i)`.
`hi[n]` is `LAYOUT.hi` of the FEEDBACK field of operator n+1, the only FB field of that operator (R25). -/
structure Layout where
  off : Vector Nat 121
  hi  : Vector Nat 4
deriving DecidableEq, Repr, Inhabited

/-- The parameters of one instance of the block (R9): constants, never written by the engine or the host. -/
structure Params where
  /-- DEVICE_HEADER, 8 bytes (45_framer.md R200), also read as HDR_LO and HDR_HI (10_state.md R33). -/
  header : Vector Byte 8
  layout : Layout
  /-- IN_CAP, the number of bytes of IBUF. -/
  inCap  : Nat
  /-- OUT_CAP, the number of bytes of OBUF. -/
  outCap : Nat
deriving DecidableEq, Repr

namespace Config

/-- IN_CAP's value (R9, decision D16). -/
def inCap : Nat := 1024

/-- OUT_CAP's value (R9, decision D16). -/
def outCap : Nat := 1280

/-- DEVICE_HEADER[k] for k = 1..7: OPEN (R9, R200). UNVERIFIED, safe: notes/assumptions/27.md. -/
opaque headerByte : Nat → Byte

/-- The layout the manufacturer chose: OPEN (R9, R166). UNVERIFIED, safe: notes/assumptions/12.md. -/
opaque rawLayout : Layout

/-- LATENCY (R9, 70_reset_and_hazards.md R281): bus cycles from the acceptance numbered by the argument to its
engine step. Any finite number, possibly 0 and possibly different for each command. Safe: notes/assumptions/2.md. -/
opaque latency : Nat → Nat

/-- An arbitrary byte: the first argument is the model's draw counter, the second tells the bytes of one draw apart.
Safe: notes/assumptions/3.md. -/
opaque freeByte : Nat → Nat → Byte

/-- An arbitrary word, numbered like `freeByte`. Safe: notes/assumptions/3.md. -/
opaque freeWord : Nat → Nat → Word

/-- MSG_GAP (R9): the host's least delay between two messages of a burst, in the host's own unit of time; OPEN.
It affects no state of the block (93_implementation_defined.md U5). Safe: notes/assumptions/29.md. -/
opaque msgGap : Nat

end Config

end Sys2Proof
end

