-- ==== Sys2Proof/Syntax.lean ====
section
/-! DEFINITION. The commands of spec/opcode_table.json, the error codes, the patch fields of 10_state.md R25,
the bus operations of 20_memory.md and the host statements of 30_encoding.md R87 and R88. -/

namespace Sys2Proof

/-- The ten commands (30_encoding.md R83). The only operand in the command word is FRAME's SEQ (R82). -/
inductive Instr where
  | unpack78
  | pack87
  | crc32
  | toSigned
  | toUnsigned
  | decode
  | encodePayload
  | frame (seq : Byte)
  | encodeBurst
  | decodeInbound
deriving DecidableEq, Repr

/-- The error codes of 60_exceptions.md R241. `unrecognizedFormat` is reserved and never raised (R243). -/
inductive ErrorCode where
  | illegalCommand
  | malformedBuffer
  | bufferOverflow
  | nameLength
  | lengthRange
  | unrecognizedFormat
deriving DecidableEq, Repr

/-- The storage kinds of patch fields (10_state.md R24, 44_patch_codec.md R161). -/
inductive FieldKind where
  | u8
  | s8
  | u16
  | u24
  | fb
  | bit0
  | bit4
deriving DecidableEq, Repr

/-- The eight pitch envelope fields (10_state.md R25, decision D21). -/
inductive PitchField where
  | aLevel | aTime | dLevel | dTime | sLevel | sTime | rLevel | rTime
deriving DecidableEq, Repr

/-- The 28 fields of one operator, in the order of 10_state.md R25. -/
inductive OpField where
  | feedback
  | crossIn1 | crossIn2 | crossIn3
  | output | level | velSens | pitchEnv | fixed
  | ratio | freq
  | detune | time | scale | lGain | rGain
  | lCurve | rCurve | upCurve | dnCurve
  | aLevel | aTime | dLevel | dTime | sLevel | sTime | rLevel | rTime
deriving DecidableEq, Repr

/-- A patch field by name (10_state.md R25). Operator numbers 1..4 are 0..3 here. -/
inductive FieldId where
  | mixerLevel
  | pitch (p : PitchField)
  | op (n : Fin 4) (f : OpField)
deriving DecidableEq, Repr

/-- The registers of the block window (10_state.md R22). -/
inductive RegName where
  | cmd | status | inLen | outLen | msgLen0 | msgLen1 | msgLen2 | crc | convIn | convOut | hdrLo | hdrHi
  | nameLen | nameW0 | nameW1
  | field (i : Fin 121)
deriving DecidableEq, Repr

/-- The widths of a bus access (20_memory.md R64). -/
inductive Width where
  | w8 | w16 | w32
deriving DecidableEq, Repr

/-- One event of the host's stream: a bus access, a host step of 30_encoding.md R87 and R88, or the reset input
(70_reset_and_hazards.md R270). -/
inductive BusOp where
  /-- A bus write of `data` at `addr`. -/
  | write (w : Width) (addr : Half) (data : Word)
  /-- A bus read at `addr`. -/
  | read (w : Width) (addr : Half)
  /-- A bus write of the data that the host's last read returned (the second half of COPY, R87). -/
  | writeLast (w : Width) (addr : Half)
  /-- A read of STATUS, repeated until its bit 0 is 0 (POLL, R87). -/
  | poll
  /-- LOOPBACK (R88): replaced by its expansion for the value that OUT_LEN has now. -/
  | loopback
  /-- The reset input is asserted. -/
  | reset
deriving DecidableEq, Repr

/-- Host statements (30_encoding.md R87) and pseudo-statements (R88). -/
inductive Stmt where
  | wr (r : RegName) (v : Word)
  | wrb (i : Nat) (bs : List Byte)
  | cmd (c : Instr)
  | cmdRaw (w : Word)
  | rd (r : RegName)
  | rdb (i : Nat)
  | poll
  | copy (i j k : Nat)
  | run (c : Instr)
  | loadin (bs : List Byte)
  | setname (s : List Byte)
  | loopback
deriving DecidableEq, Repr

end Sys2Proof
end

