-- ==== Sys2Proof/Machine/Fields.lean ====
section
/-! DEFINITION. The field index table of 10_state.md R25 and the kinds and widths of R24. -/

namespace Sys2Proof

/-- The storage width W of a kind in bits (10_state.md R24). -/
def FieldKind.width : FieldKind → Nat
  | .u8 => 8
  | .s8 => 8
  | .u16 => 16
  | .u24 => 24
  | .fb => 16
  | .bit0 => 1
  | .bit4 => 1

/-- The kinds whose registers read sign-extended (10_state.md R24). -/
def FieldKind.signed : FieldKind → Bool
  | .s8 => true
  | .fb => true
  | .u8 => false
  | .u16 => false
  | .u24 => false
  | .bit0 => false
  | .bit4 => false

/-- Pitch field number p is register F[1 + p] (10_state.md R25). -/
def PitchField.toIdx : PitchField → Fin 8
  | .aLevel => 0
  | .aTime => 1
  | .dLevel => 2
  | .dTime => 3
  | .sLevel => 4
  | .sTime => 5
  | .rLevel => 6
  | .rTime => 7

/-- The inverse of `PitchField.toIdx`. -/
def PitchField.ofIdx : Nat → PitchField
  | 0 => .aLevel
  | 1 => .aTime
  | 2 => .dLevel
  | 3 => .dTime
  | 4 => .sLevel
  | 5 => .sTime
  | 6 => .rLevel
  | _ => .rTime

/-- Operator field number f is register F[b + f], b = 9 + 28*(n-1) (10_state.md R25). -/
def OpField.toIdx : OpField → Fin 28
  | .feedback => 0
  | .crossIn1 => 1
  | .crossIn2 => 2
  | .crossIn3 => 3
  | .output => 4
  | .level => 5
  | .velSens => 6
  | .pitchEnv => 7
  | .fixed => 8
  | .ratio => 9
  | .freq => 10
  | .detune => 11
  | .time => 12
  | .scale => 13
  | .lGain => 14
  | .rGain => 15
  | .lCurve => 16
  | .rCurve => 17
  | .upCurve => 18
  | .dnCurve => 19
  | .aLevel => 20
  | .aTime => 21
  | .dLevel => 22
  | .dTime => 23
  | .sLevel => 24
  | .sTime => 25
  | .rLevel => 26
  | .rTime => 27

/-- The inverse of `OpField.toIdx`. -/
def OpField.ofIdx : Nat → OpField
  | 0 => .feedback
  | 1 => .crossIn1
  | 2 => .crossIn2
  | 3 => .crossIn3
  | 4 => .output
  | 5 => .level
  | 6 => .velSens
  | 7 => .pitchEnv
  | 8 => .fixed
  | 9 => .ratio
  | 10 => .freq
  | 11 => .detune
  | 12 => .time
  | 13 => .scale
  | 14 => .lGain
  | 15 => .rGain
  | 16 => .lCurve
  | 17 => .rCurve
  | 18 => .upCurve
  | 19 => .dnCurve
  | 20 => .aLevel
  | 21 => .aTime
  | 22 => .dLevel
  | 23 => .dTime
  | 24 => .sLevel
  | 25 => .sTime
  | 26 => .rLevel
  | _ => .rTime

/-- The kind column of the operator table (10_state.md R25). -/
def OpField.kind : OpField → FieldKind
  | .feedback => .fb
  | .crossIn1 => .u8
  | .crossIn2 => .u8
  | .crossIn3 => .u8
  | .output => .u8
  | .level => .u8
  | .velSens => .u8
  | .pitchEnv => .u8
  | .fixed => .u8
  | .ratio => .u16
  | .freq => .u24
  | .detune => .s8
  | .time => .u8
  | .scale => .u8
  | .lGain => .s8
  | .rGain => .s8
  | .lCurve => .bit0
  | .rCurve => .bit4
  | .upCurve => .s8
  | .dnCurve => .s8
  | .aLevel => .u8
  | .aTime => .u8
  | .dLevel => .u8
  | .dTime => .u8
  | .sLevel => .u8
  | .sTime => .u8
  | .rLevel => .u8
  | .rTime => .u8

/-- The kind of a field: Mixer.Level and the pitch fields are S8 (10_state.md R25). -/
def FieldId.kind : FieldId → FieldKind
  | .mixerLevel => .s8
  | .pitch _ => .s8
  | .op _ f => f.kind

/-- The register index of a field (10_state.md R25). -/
def FieldId.index : FieldId → Fin 121
  | .mixerLevel => 0
  | .pitch p => ⟨1 + p.toIdx.val, by have := p.toIdx.isLt; omega⟩
  | .op n f => ⟨9 + 28 * n.val + f.toIdx.val, by have := f.toIdx.isLt; have := n.isLt; omega⟩

/-- The operator (0..3) that register i >= 9 belongs to (10_state.md R25). -/
def operatorOf (i : Fin 121) : Fin 4 := ⟨(i.val - 9) / 28, by have := i.isLt; omega⟩

/-- The field that register i holds (10_state.md R25). -/
def FieldId.ofIndex (i : Fin 121) : FieldId :=
  if i.val = 0 then .mixerLevel
  else if i.val < 9 then .pitch (PitchField.ofIdx (i.val - 1))
  else .op (operatorOf i) (OpField.ofIdx ((i.val - 9) % 28))

/-- The kind of register F[i] (10_state.md R25). -/
def kindAt (i : Fin 121) : FieldKind := (FieldId.ofIndex i).kind

/-- The LCURVE register of operator n+1. -/
def lCurveAt (n : Fin 4) : Fin 121 := FieldId.index (.op n .lCurve)

/-- The RCURVE register of operator n+1. -/
def rCurveAt (n : Fin 4) : Fin 121 := FieldId.index (.op n .rCurve)

/-- The operator whose output is cross input k+1 of operator n+1: the other three in ascending order (10_state.md R25). -/
def crossSource (n : Fin 4) (k : Fin 3) : Fin 4 :=
  if k.val < n.val then ⟨k.val, by omega⟩ else ⟨k.val + 1, by omega⟩

/-- The documented range of a field where the source gives one (10_state.md R25); FEEDBACK counts tenths and RATIO
hundredths (44_patch_codec.md R180, R181). Advisory: no operation reads it (R183). -/
def FieldId.documentedRange : FieldId → Option (Int × Int)
  | .mixerLevel => some (-128, 127)
  | .pitch _ => none
  | .op _ .feedback => some (-630, 649)
  | .op _ .crossIn1 => some (0, 127)
  | .op _ .crossIn2 => some (0, 127)
  | .op _ .crossIn3 => some (0, 127)
  | .op _ .output => some (0, 127)
  | .op _ .level => some (0, 127)
  | .op _ .velSens => some (0, 127)
  | .op _ .pitchEnv => some (0, 1)
  | .op _ .fixed => some (0, 1)
  | .op _ .ratio => some (50, 3200)
  | .op _ .freq => some (0, 16777215)
  | .op _ .detune => some (-63, 63)
  | .op _ .time => none
  | .op _ .scale => some (0, 6)
  | .op _ .lGain => some (-63, 63)
  | .op _ .rGain => some (-63, 63)
  | .op _ .lCurve => some (0, 1)
  | .op _ .rCurve => some (0, 1)
  | .op _ .upCurve => some (-18, 18)
  | .op _ .dnCurve => some (-18, 18)
  | .op _ .aLevel => some (0, 127)
  | .op _ .aTime => some (0, 127)
  | .op _ .dLevel => some (0, 127)
  | .op _ .dTime => some (0, 127)
  | .op _ .sLevel => some (0, 127)
  | .op _ .sTime => some (0, 127)
  | .op _ .rLevel => some (0, 127)
  | .op _ .rTime => some (0, 127)

end Sys2Proof
end

