-- ==== Sys2Proof/WellFormed.lean ====
section
/-! DEFINITION. What makes a layout, a set of parameters, a command and a host statement well formed. -/

namespace Sys2Proof

/-- The payload bytes that field i uses (44_patch_codec.md R161, R166 condition 2). -/
def Layout.fieldBytes (L : Layout) (i : Fin 121) : List Nat :=
  match kindAt i with
  | .u8 => [L.off.get i]
  | .s8 => [L.off.get i]
  | .u16 => [L.off.get i, L.off.get i + 1]
  | .u24 => [L.off.get i, L.off.get i + 1, L.off.get i + 2]
  | .fb => [L.off.get i, L.hi.get (operatorOf i)]
  | .bit0 => [L.off.get i]
  | .bit4 => [L.off.get i]

/-- Every payload byte the layout assigns, the shared curve bytes once (as LCURVE's). -/
def Layout.claimed (L : Layout) : List Nat :=
  (List.finRange 121).flatMap fun i => if kindAt i = .bit4 then [] else L.fieldBytes i

/-- 44_patch_codec.md R166 condition 1: every assigned byte is in 0x00..0x84. -/
def Layout.inPayload (L : Layout) : Bool :=
  (List.finRange 121).all fun i => (L.fieldBytes i).all fun o => decide (o ≤ 0x84)

/-- R166 condition 3: LCURVE and RCURVE of one operator have the same offset. -/
def Layout.curvesShared (L : Layout) : Bool :=
  (List.finRange 4).all fun n => L.off.get (lCurveAt n) == L.off.get (rCurveAt n)

/-- R166 condition 4: no other two fields, and no two bytes of one field, share a byte. -/
def Layout.noOverlap (L : Layout) : Bool := decide L.claimed.Nodup

/-- A well-formed LAYOUT (R166). Condition 2 is built into `Layout.fieldBytes`. -/
def Layout.wf (L : Layout) : Bool := L.inPayload && L.curvesShared && L.noOverlap

/-- Well-formed parameters: DEVICE_HEADER[0] = 0xF0 (45_framer.md R200), the capacity bounds of 00_scope.md R9 and
20_memory.md R61, and a well-formed LAYOUT. -/
def Params.wf (p : Params) : Bool :=
  (p.header.get 0 == 0xF0) && decide (230 ≤ p.inCap) && decide (p.inCap ≤ 4096) &&
  decide (265 ≤ p.outCap) && decide (p.outCap ≤ 4096) && p.layout.wf

/-- Parameters that passed the check: an ill-formed configuration is refused by the type
(93_implementation_defined.md U3, U4). -/
abbrev CheckedParams := { p : Params // p.wf = true }

/-- Every command is well formed: SEQ is any byte (45_framer.md R202) and no other command has an operand field
(30_encoding.md R80), so there is nothing to refuse. -/
def Instr.wf : Instr → Bool
  | .unpack78 => true
  | .pack87 => true
  | .crc32 => true
  | .toSigned => true
  | .toUnsigned => true
  | .decode => true
  | .encodePayload => true
  | .frame _ => true
  | .encodeBurst => true
  | .decodeInbound => true

/-- A host statement whose bus transactions stay inside the buffers it names (30_encoding.md R87, R88). -/
def Stmt.wf (p : Params) : Stmt → Bool
  | .wr _ _ => true
  | .wrb i bs => decide (i + bs.length ≤ p.inCap)
  | .cmd c => c.wf
  | .cmdRaw _ => true
  | .rd _ => true
  | .rdb i => decide (i < p.outCap)
  | .poll => true
  | .copy i j k => decide (i ≤ j) && decide (j ≤ p.outCap) && decide (k + (j - i) ≤ p.inCap)
  | .run c => c.wf
  | .loadin bs => decide (bs.length ≤ p.inCap)
  | .setname s => decide (s.length ≤ 8)
  | .loopback => true

end Sys2Proof
end

