-- ==== Sys2Proof/Decode.lean ====
section
/-! DEFINITION. The command word: decoding (30_encoding.md R86), total on all 2^32 words and rejecting by name, and
after it the encoder written from the formats of R80 and the opcode map of R83. -/

namespace Sys2Proof

/-- Why a command word is illegal (30_encoding.md R84). Both raise ILLEGAL_COMMAND (60_exceptions.md R242). -/
inductive IllegalWord where
  /-- OP is 0x00 or 0x0B..0xFF. -/
  | reservedOpcode (op : Byte)
  /-- OP names a command and a reserved bit of its format is not 0. -/
  | reservedBits (op : Byte)
deriving DecidableEq, Repr

/-- w[7:0] (R80). -/
def opField (w : Word) : Byte := w.extractLsb' 0 8

/-- w[15:8], the SEQ field of format C1 (R80, R82). -/
def seqField (w : Word) : Byte := w.extractLsb' 8 8

/-- w[31:8] = 0, the reserved bits of format C0 (R80). -/
def c0ReservedClear (w : Word) : Bool := w.extractLsb' 8 24 == 0#24

/-- w[31:16] = 0, the reserved bits of format C1 (R80). -/
def c1ReservedClear (w : Word) : Bool := w.extractLsb' 16 16 == 0#16

/-- The format C0 commands of the opcode map (R83). -/
def c0Opcode (op : Byte) : Option Instr :=
  match op.toNat with
  | 0x01 => some .unpack78
  | 0x02 => some .pack87
  | 0x03 => some .crc32
  | 0x04 => some .toSigned
  | 0x05 => some .toUnsigned
  | 0x06 => some .decode
  | 0x07 => some .encodePayload
  | 0x09 => some .encodeBurst
  | 0x0A => some .decodeInbound
  | _ => none

/-- `decodeCommand` of R86. -/
def decodeCommand (w : Word) : Except IllegalWord Instr :=
  if opField w = 0x08 then
    if c1ReservedClear w then .ok (.frame (seqField w)) else .error (.reservedBits (opField w))
  else
    match c0Opcode (opField w) with
    | some i => if c0ReservedClear w then .ok i else .error (.reservedBits (opField w))
    | none => .error (.reservedOpcode (opField w))

/-- The OP field of each command (R83). -/
def opcodeOf : Instr → Byte
  | .unpack78 => 0x01
  | .pack87 => 0x02
  | .crc32 => 0x03
  | .toSigned => 0x04
  | .toUnsigned => 0x05
  | .decode => 0x06
  | .encodePayload => 0x07
  | .frame _ => 0x08
  | .encodeBurst => 0x09
  | .decodeInbound => 0x0A

/-- The command word of a command: formats C0 and C1 of R80. -/
def encodeCommand (i : Instr) : Word :=
  match i with
  | .frame seq => 0#16 ++ seq ++ opcodeOf (.frame seq)
  | .unpack78 => 0#24 ++ opcodeOf .unpack78
  | .pack87 => 0#24 ++ opcodeOf .pack87
  | .crc32 => 0#24 ++ opcodeOf .crc32
  | .toSigned => 0#24 ++ opcodeOf .toSigned
  | .toUnsigned => 0#24 ++ opcodeOf .toUnsigned
  | .decode => 0#24 ++ opcodeOf .decode
  | .encodePayload => 0#24 ++ opcodeOf .encodePayload
  | .encodeBurst => 0#24 ++ opcodeOf .encodeBurst
  | .decodeInbound => 0#24 ++ opcodeOf .decodeInbound

/-- The one word of a table row, as the host's CMD write carries it: the row's bits w, bit 0 the least significant,
those above `nbits` 0. A number that is no 32-bit word is no command (R85). -/
def tableWord (nbits w : Nat) : Option Word :=
  if w % 2 ^ nbits < 2 ^ 32 then some (BitVec.ofNat 32 (w % 2 ^ nbits)) else none

/-- The instruction the decoder reads from a row's bits (notes/assumptions/23.md). -/
def decodeTableWord (nbits w : Nat) : Option Instr :=
  match tableWord nbits w with
  | some word => (decodeCommand word).toOption
  | none => none

end Sys2Proof
end

