-- ==== Sys2Proof/Machine/Bits.lean ====
section
/-! DEFINITION. Sign extension, truncation, byte order and grouping (00_scope.md R11 to R13). -/

namespace Sys2Proof

/-- `sext_N(v)`: the low N bits of v as two's complement (R13). -/
def sextN (n v : Nat) : Int :=
  if v % 2 ^ n < 2 ^ (n - 1) then ((v % 2 ^ n : Nat) : Int) else ((v % 2 ^ n : Nat) : Int) - 2 ^ n

/-- `zext_N(v)`: the low N bits of v as a non-negative integer (R13). -/
def zextN (n v : Nat) : Int := ((v % 2 ^ n : Nat) : Int)

/-- `trunc_N(v)` = v mod 2^N (R13). -/
def truncN (n : Nat) (v : Int) : Nat := (v % 2 ^ n).toNat

/-- Byte k of an integer in two's complement, v[8k+7:8k] (R11). -/
def byteOf (v : Int) (k : Nat) : Byte := BitVec.ofNat 8 (truncN 8 (v / 256 ^ k))

/-- `le32(v)`, least significant byte first (R12). -/
def le32 (v : Word) : List Byte :=
  [v.extractLsb' 0 8, v.extractLsb' 8 8, v.extractLsb' 16 8, v.extractLsb' 24 8]

/-- The word whose bytes are b0 (bits [7:0]) to b3 (bits [31:24]) (20_memory.md R63). -/
def wordOfBytes (b0 b1 b2 b3 : Byte) : Word := b3 ++ b2 ++ b1 ++ b0

/-- `chunks` with its recursion bounded by the first argument. -/
def chunksUpTo {α : Type} (n : Nat) : Nat → List α → List (List α)
  | 0, _ => []
  | _ + 1, [] => []
  | k + 1, x :: xs => (x :: xs).take n :: chunksUpTo n k ((x :: xs).drop n)

/-- A sequence cut into consecutive groups of n, the last one holding what remains
(41_bitpacker.md R105 with n = 8, R111 with n = 7). -/
def chunks {α : Type} (n : Nat) (xs : List α) : List (List α) := chunksUpTo n xs.length xs

end Sys2Proof
end

