-- ==== Sys2Proof/Machine/Parameters.lean ====
section
/-! DEFINITION. The parameters of the instance that State.reset carries. -/

namespace Sys2Proof

/-- The payload offset of field i in the example layout EL of 95_test_vectors.md section 1 (`lo` for FEEDBACK). -/
def exampleOffset (i : Fin 121) : Nat :=
  let n := (i.val - 9) / 28
  let j := (i.val - 9) % 28
  let b := 0x0D + 30 * n
  if i.val = 0 then 0x04
  else if i.val < 9 then 0x04 + i.val
  else if j = 0 then n
  else if j ≤ 10 then (if j ≤ 9 then b + j else b + 11)
  else if j ≤ 16 then b + j + 3
  else b + j + 2

/-- EL, the example layout of 95_test_vectors.md: invented for tests, not the device's (decision D44). -/
def exampleLayout : Layout :=
  { off := Vector.ofFn exampleOffset, hi := #v[0x0D, 0x2B, 0x49, 0x67] }

theorem exampleLayout_wf : exampleLayout.wf = true := by decide +kernel

/-- A layout is accepted only if it is well formed (44_patch_codec.md R166, 93_implementation_defined.md U3).
DESIGN CHOICE, safe: an ill-formed one is replaced by EL, which keeps the constant below total; which of the two
stands there for the OPEN parameter cannot be proved (notes/assumptions/12.md). -/
def acceptLayout (L : Layout) : { L : Layout // L.wf = true } :=
  if h : L.wf = true then ⟨L, h⟩ else ⟨exampleLayout, exampleLayout_wf⟩

/-- The parameters of the instance (00_scope.md R9): DEVICE_HEADER[0] = 0xF0 (45_framer.md R200), the other header
bytes and the layout OPEN, the capacities the spec's defaults. -/
def instanceParams : CheckedParams :=
  ⟨{ header := #v[0xF0, Config.headerByte 1, Config.headerByte 2, Config.headerByte 3,
                  Config.headerByte 4, Config.headerByte 5, Config.headerByte 6, Config.headerByte 7]
     layout := (acceptLayout Config.rawLayout).1
     inCap := Config.inCap
     outCap := Config.outCap },
   by
    have h := (acceptLayout Config.rawLayout).2
    simp [Params.wf, h, Config.inCap, Config.outCap]⟩

end Sys2Proof
end

