-- ==== Sys2Proof/Machine/State.lean ====
section
/-! DEFINITION. The state of the block, of the host's stream of accesses, and the reasons a step can stop. -/

namespace Sys2Proof.Machine

/-- STATUS (10_state.md R27). All other bits of the register read 0 (Machine/Flags.lean). -/
structure Status where
  /-- [0]: a command is accepted and not complete. -/
  busy  : Bool
  /-- [1]: the last accepted command completed. -/
  done  : Bool
  /-- [2]: the last completed command raised an error. -/
  err   : Bool
  /-- [3]: a CMD write arrived while BUSY = 1 and was dropped. -/
  ovr   : Bool
  /-- [15:8]: the error code of the last completed command. -/
  ecode : Byte
deriving DecidableEq, Repr

/-- IBUF and OBUF as one list of (block-window address, byte) pairs, addresses strictly rising. An address that is not
listed is an unwritten byte (20_memory.md R70). -/
abbrev Memory := List Host.Cell

/-- The block's response to one host access (20_memory.md R63, R65). -/
inductive BusResp where
  /-- A read that returned these 32 bits. An 8-bit read returns its byte in bits [7:0]; the others are 0, the model's choice
  (notes/assumptions/30.md). -/
  | data (w : Word)
  /-- A write that got no bus error. -/
  | ack
  /-- A bus error response (20_memory.md R64, R65). -/
  | busError
deriving DecidableEq, Repr

/-- Everything the spec gives the machine (INVENTORY.md, State), the constants of the instance, and the model's own
fields at the end. -/
structure State where
  /-- The parameters of 00_scope.md R9, HDR_LO and HDR_HI among them. No step changes them. -/
  par     : CheckedParams
  status  : Status
  inLen   : Half
  outLen  : Half
  msgLen0 : Half
  msgLen1 : Half
  msgLen2 : Half
  crc     : Word
  convIn  : Word
  convOut : Word
  nameLen : BitVec 4
  name    : Vector Byte 8
  /-- F[0..120] (10_state.md R24), each in a 24-bit cell whose bits above the field's width are 0. -/
  f       : Vector (BitVec 24) 121
  /-- PEND, the accepted command word (10_state.md R36). -/
  pend    : Word
  /-- IBUF and OBUF (10_state.md R34). -/
  mem     : Memory
  /-- The model's own: what is left of the host's stream of accesses (20_memory.md R71). -/
  host    : List BusOp
  /-- The model's own: the response to the last host access. -/
  resp    : Option BusResp
  /-- The model's own: bus cycles before the engine's step of the accepted command (LATENCY). -/
  wait    : Nat
  /-- The model's own: an operand of the pending command was written since its acceptance (10_state.md R42). -/
  hazard  : Bool
  /-- The model's own: the counter free values are applied to. -/
  draws   : Nat
deriving DecidableEq, Repr

/-- Why a run stops. -/
inductive Fault where
  /-- Raised by the commands that read IBUF (UNPACK78, PACK87, CRC32, DECODE, FRAME, DECODE_INBOUND) when a byte of
  IBUF[0..IN_LEN) is unwritten: 20_memory.md R70 calls it a fault of the run. Safe. -/
  | unwrittenInput
deriving DecidableEq, Repr

/-- Why a step has no meaning. -/
inductive Refusal where
  /-- An instruction whose arm of exec has no meaning yet, by its mnemonic. No arm raises it. Safe. -/
  | notModelled (mnemonic : String)
deriving DecidableEq, Repr

/-- STATUS after reset (10_state.md R43). -/
def Status.reset : Status := { busy := false, done := false, err := false, ovr := false, ecode := 0 }

/-- The machine right after reset (10_state.md R43, 70_reset_and_hazards.md R271). PEND and the model's own fields:
DESIGN CHOICE, notes/assumptions/4.md and 21.md. -/
def State.reset : State where
  par := instanceParams
  status := Status.reset
  inLen := 0
  outLen := 0
  msgLen0 := 0
  msgLen1 := 0
  msgLen2 := 0
  crc := 0
  convIn := 0
  convOut := 0
  nameLen := 0
  name := Vector.replicate 8 0
  f := Vector.replicate 121 0
  pend := 0
  mem := []
  host := []
  resp := none
  wait := 0
  hazard := false
  draws := 0

/-- IN_CAP of this instance (00_scope.md R9). -/
abbrev State.inCap (s : State) : Nat := s.par.1.inCap

/-- OUT_CAP of this instance (00_scope.md R9). -/
abbrev State.outCap (s : State) : Nat := s.par.1.outCap

/-- DEVICE_HEADER of this instance (45_framer.md R200). -/
abbrev State.header (s : State) : List Byte := s.par.1.header.toList

/-- LAYOUT of this instance (44_patch_codec.md R166). -/
abbrev State.layout (s : State) : Layout := s.par.1.layout

end Sys2Proof.Machine
end

