-- ==== Sys2Proof/Machine/Flags.lean ====
section
/-! DEFINITION. STATUS, the block's only flags (10_state.md R27, R28), and the error codes (60_exceptions.md R241). -/

namespace Sys2Proof

/-- The STATUS.ECODE value of an error (60_exceptions.md R241). -/
def ErrorCode.code : ErrorCode → Byte
  | .illegalCommand => 0x01
  | .malformedBuffer => 0x02
  | .bufferOverflow => 0x03
  | .nameLength => 0x04
  | .lengthRange => 0x05
  | .unrecognizedFormat => 0x06

namespace Machine

/-- STATUS as the host reads it (10_state.md R22, R27): [0] BUSY, [1] DONE, [2] ERR, [3] OVR, [15:8] ECODE. -/
def Status.word (t : Status) : Word :=
  0#16 ++ t.ecode ++ 0#4 ++ BitVec.ofBool t.ovr ++ BitVec.ofBool t.err ++ BitVec.ofBool t.done ++ BitVec.ofBool t.busy

/-- STATUS when a command is accepted (10_state.md R23). -/
def Status.accepted : Status := { busy := true, done := false, err := false, ovr := false, ecode := 0 }

/-- STATUS when a command completes without error (10_state.md R40): ERR, OVR and ECODE are not written. -/
def Status.completed (t : Status) : Status := { t with busy := false, done := true }

/-- STATUS when a command completes with an error (10_state.md R40, 60_exceptions.md R245). -/
def Status.failed (t : Status) (e : ErrorCode) : Status :=
  { t with busy := false, done := true, err := true, ecode := e.code }

/-- STATUS after a dropped CMD write (10_state.md R23, 60_exceptions.md R248). -/
def Status.overrun (t : Status) : Status := { t with ovr := true }

end Machine

end Sys2Proof
end

