-- ==== Sys2Proof/Machine/Ops.lean ====
section
/-! DEFINITION. The named operations over memory and registers: every state change of a step goes through these. -/

namespace Sys2Proof.Machine

/-- The window address of IBUF[0] (20_memory.md R61). -/
def ibufBase : Nat := 0x1000

/-- The window address of OBUF[0] (20_memory.md R61). -/
def obufBase : Nat := 0x2000

/-- The canonical form of memory: addresses strictly rising. An unlisted address reads as no value, so no entry can
equal it. -/
abbrev Memory.wf (m : Memory) : Prop := List.Pairwise (fun a b : Host.Cell => a.1 < b.1) m

/-- The byte at a window address; `none` is an unwritten byte (20_memory.md R70). -/
def Memory.read : Memory → Nat → Option Byte
  | [], _ => none
  | (k, b) :: m, a => if k = a then some b else Memory.read m a

/-- Consecutive bytes as memory entries. -/
def cellsAt : Nat → List Byte → Memory
  | _, [] => []
  | a, b :: bs => (a, b) :: cellsAt (a + 1) bs

/-- Memory with `bs` stored from address `a` on, all other bytes kept. -/
def Memory.writeBytes (m : Memory) (a : Nat) (bs : List Byte) : Memory :=
  m.filter (fun c => decide (c.1 < a)) ++ cellsAt a bs ++ m.filter (fun c => decide (a + bs.length ≤ c.1))

/-- The n bytes from address `a` on, `none` if one of them is unwritten. -/
def Memory.readBytes (m : Memory) (a : Nat) : Nat → Option (List Byte)
  | 0 => some []
  | n + 1 =>
    match m.read a, Memory.readBytes m (a + 1) n with
    | some b, some bs => some (b :: bs)
    | _, _ => none

/-- `MemRead(IBUF, 0, n)` (00_scope.md R14). -/
def State.readIbuf (s : State) (n : Nat) : Option (List Byte) := s.mem.readBytes ibufBase n

/-- `MemWrite(OBUF, i, len bs, bs)` (00_scope.md R14). -/
def State.writeObuf (s : State) (i : Nat) (bs : List Byte) : State :=
  { s with mem := s.mem.writeBytes (obufBase + i) bs }

/-- OBUF[0..len bs) and OUT_LEN written with a result (20_memory.md R69, 10_state.md R30). -/
def State.storeResult (s : State) (bs : List Byte) : State :=
  { s.writeObuf 0 bs with outLen := BitVec.ofNat 16 bs.length }

/-- The engine's completion without error (10_state.md R40, 60_exceptions.md R249). -/
def State.complete (s : State) : State := { s with status := s.status.completed }

/-- `raise E` (60_exceptions.md R245, R249): the block's exception entry. STATUS records the completion, the error and
its code, and nothing else is written. There is no saved state, no mode and no handler (R240); the return is the next
accepted command (R250), `State.accept`. -/
def State.raiseError (s : State) (e : ErrorCode) : State := { s with status := s.status.failed e }

/-- Acceptance of a command word (10_state.md R23). How long the engine then takes is LATENCY, a free value. -/
def State.accept (s : State) (w : Word) : State :=
  { s with
    pend := w
    status := Status.accepted
    wait := Config.latency s.draws
    draws := s.draws + 1
    hazard := false }

/-- A host write of w to CMD (10_state.md R23, 60_exceptions.md R248). -/
def State.cmdWrite (s : State) (w : Word) : State :=
  if s.status.busy then { s with status := s.status.overrun } else s.accept w

/-- The value of field i that its cell stands for: sign- or zero-extended from the field's width (10_state.md R24). -/
def fieldValue (i : Fin 121) (c : BitVec 24) : Int :=
  if (kindAt i).signed then sextN (kindAt i).width c.toNat else zextN (kindAt i).width c.toNat

/-- The cell that stores an integer in field i: `trunc_W` (10_state.md R24). -/
def fieldCell (i : Fin 121) (v : Int) : BitVec 24 := BitVec.ofNat 24 (truncN (kindAt i).width v)

/-- What the host reads from F[i]: the value as a 32-bit two's-complement word (10_state.md R24). -/
def State.readField (s : State) (i : Fin 121) : Word := BitVec.ofInt 32 (fieldValue i (s.f.get i))

/-- A write of an integer to F[i] (10_state.md R24). -/
def State.writeField (s : State) (i : Fin 121) (v : Int) : State :=
  { s with f := s.f.set i.val (fieldCell i v) i.isLt }

/-- NAME_W0 (10_state.md R22). -/
def State.nameW0 (s : State) : Word := wordOfBytes (s.name.get 0) (s.name.get 1) (s.name.get 2) (s.name.get 3)

/-- NAME_W1 (10_state.md R22). -/
def State.nameW1 (s : State) : Word := wordOfBytes (s.name.get 4) (s.name.get 5) (s.name.get 6) (s.name.get 7)

/-- A host write of NAME_W0. -/
def State.writeNameW0 (s : State) (w : Word) : State :=
  { s with name := #v[w.extractLsb' 0 8, w.extractLsb' 8 8, w.extractLsb' 16 8, w.extractLsb' 24 8,
                      s.name.get 4, s.name.get 5, s.name.get 6, s.name.get 7] }

/-- A host write of NAME_W1. -/
def State.writeNameW1 (s : State) (w : Word) : State :=
  { s with name := #v[s.name.get 0, s.name.get 1, s.name.get 2, s.name.get 3,
                      w.extractLsb' 0 8, w.extractLsb' 8 8, w.extractLsb' 16 8, w.extractLsb' 24 8] }

/-- HDR_LO: DEVICE_HEADER[0..4) (10_state.md R33). -/
def State.hdrLo (s : State) : Word :=
  wordOfBytes (s.par.1.header.get 0) (s.par.1.header.get 1) (s.par.1.header.get 2) (s.par.1.header.get 3)

/-- HDR_HI: DEVICE_HEADER[4..8) (10_state.md R33). -/
def State.hdrHi (s : State) : Word :=
  wordOfBytes (s.par.1.header.get 4) (s.par.1.header.get 5) (s.par.1.header.get 6) (s.par.1.header.get 7)

/-- The reset input (70_reset_and_hazards.md R270, R271, R273): every register at its reset value, every buffer byte
unwritten, a pending command abandoned. The instance's constants, the rest of the host's stream and the draw counter
are not state that reset clears (notes/assumptions/19.md). -/
def State.resetInput (s : State) : State :=
  { State.reset with par := s.par, host := s.host, draws := s.draws }

/-- Message k (1, 2, 3) of the last burst as it lies in OBUF (10_state.md R30): what the host transmits, in this order
(70_reset_and_hazards.md R278). -/
def State.burstMessage (s : State) : Fin 3 → Option (List Byte)
  | 0 => s.mem.readBytes obufBase s.msgLen0.toNat
  | 1 => s.mem.readBytes (obufBase + s.msgLen0.toNat) s.msgLen1.toNat
  | 2 => s.mem.readBytes (obufBase + s.msgLen0.toNat + s.msgLen1.toNat) s.msgLen2.toNat

end Sys2Proof.Machine
end

