-- ==== Sys2Proof/Machine/Operands.lean ====
section
/-! DEFINITION. The operand forms of the commands (30_encoding.md R82) and the checks before the first result write
(60_exceptions.md R245, R246). -/

namespace Sys2Proof.Machine

/-- What a command answers: a next state, or the fault of 20_memory.md R70. -/
abbrev Result := Host.Outcome State Fault Refusal

/-- The byte-stream operand IBUF[0..IN_LEN): LENGTH_RANGE if IN_LEN > IN_CAP (10_state.md R29, 60_exceptions.md R260),
the fault of 20_memory.md R70 if a byte of it is unwritten. -/
def withInput (s : State) (k : List Byte → Result) : Result :=
  if s.inCap < s.inLen.toNat then .next (s.raiseError .lengthRange)
  else
    match s.readIbuf s.inLen.toNat with
    | none => .fault .unwrittenInput
    | some bs => k bs

/-- `fail E -> raise E` (00_scope.md R15). -/
def orRaise {α : Type} (s : State) (r : Except ErrorCode α) (k : α → Result) : Result :=
  match r with
  | .error e => .next (s.raiseError e)
  | .ok a => k a

/-- The end of every command with one OBUF result: BUFFER_OVERFLOW if it exceeds OUT_CAP (60_exceptions.md R260), else
OBUF[0..n) and OUT_LEN (20_memory.md R69) and completion. -/
def finishWithBytes (s : State) (bs : List Byte) : Result :=
  if s.outCap < bs.length then .next (s.raiseError .bufferOverflow) else .next (s.storeResult bs).complete

/-- CONV_IN[7:0], TOSIGNED's operand (43_signed_byte.md R152). -/
def State.convByte (s : State) : Byte := s.convIn.extractLsb' 0 8

/-- `sext_32(x[CONV_IN])`, TOUNSIGNED's operand (43_signed_byte.md R154). -/
def State.convInt (s : State) : Int := s.convIn.toInt

/-- NAME[0..n), the name operand of ENCODE_BURST (45_framer.md R203). -/
def State.nameBytes (s : State) (n : Nat) : List Byte := s.name.toList.take n

end Sys2Proof.Machine
end

