-- ==== Sys2Proof/Machine/Checksum.lean ====
section
/-! DEFINITION. The CRC32 engine: CRCROM, crc32 and the command CRC32 (42_checksum.md). -/

namespace Sys2Proof

/-- One step of the table construction (42_checksum.md R131). -/
def crcStep (c : Word) : Word := if c.getLsbD 0 then 0xEDB88320#32 ^^^ (c >>> 1) else c >>> 1

/-- Eight steps. -/
def crcStep8 (c : Word) : Word :=
  crcStep (crcStep (crcStep (crcStep (crcStep (crcStep (crcStep (crcStep c)))))))

/-- CRCROM[i], constant from reset on (42_checksum.md R131, 70_reset_and_hazards.md R272). -/
def crcRom (i : Byte) : Word := crcStep8 (i.setWidth 32)

/-- The fold of R133 over one byte. -/
def crcByte (crc : Word) (b : Byte) : Word :=
  (crc >>> 8) ^^^ crcRom ((crc ^^^ b.setWidth 32).extractLsb' 0 8)

/-- `crc32(X)` (42_checksum.md R133). -/
def crc32 (xs : List Byte) : Word := xs.foldl crcByte 0xFFFFFFFF#32 ^^^ 0xFFFFFFFF#32

namespace Machine

/-- CRC32 (42_checksum.md R134). -/
def execCrc32 (s : State) : Result :=
  withInput s fun b => .next { s with crc := crc32 b }.complete

end Machine

end Sys2Proof
end

