-- ==== Sys2Proof/Machine/SignedByte.lean ====
section
/-! DEFINITION. The signed-byte converter: toSigned, toUnsignedByte, TOSIGNED and TOUNSIGNED (43_signed_byte.md). -/

namespace Sys2Proof

/-- `toSigned(b)` (43_signed_byte.md R151). -/
def toSigned (b : Byte) : Int := if b.toNat ≤ 127 then (b.toNat : Int) else (b.toNat : Int) - 256

/-- `toUnsignedByte(v)`, truncation to 8 bits (43_signed_byte.md R153). -/
def toUnsignedByte (v : Int) : Byte := BitVec.ofNat 8 (truncN 8 v)

namespace Machine

/-- TOSIGNED (43_signed_byte.md R152). -/
def execToSigned (s : State) : Result :=
  .next { s with convOut := BitVec.ofNat 32 (truncN 32 (toSigned s.convByte)) }.complete

/-- TOUNSIGNED (43_signed_byte.md R154). -/
def execToUnsigned (s : State) : Result :=
  .next { s with convOut := (toUnsignedByte s.convInt).setWidth 32 }.complete

end Machine

end Sys2Proof
end

