-- ==== Sys2Proof/Machine/PatchCodec.lean ====
section
/-! DEFINITION. The patch struct marshaler: decode, encodePayload, DECODE and ENCODE_PAYLOAD (44_patch_codec.md). -/

namespace Sys2Proof

open Machine (fieldValue fieldCell)

/-- Byte o of a payload or message. -/
def byteAt (bs : List Byte) (o : Nat) : Byte := bs.getD o 0

/-- The value of field i in a payload: the decode column of 44_patch_codec.md R161, with R168 for FB and R169 for the
curve byte. -/
def decodeField (L : Layout) (pl : List Byte) (i : Fin 121) : Int :=
  let o := L.off.get i
  match kindAt i with
  | .u8 => ((byteAt pl o).toNat : Int)
  | .s8 => toSigned (byteAt pl o)
  | .u16 => ((byteAt pl o).toNat + (byteAt pl (o + 1)).toNat * 256 : Nat)
  | .u24 => ((byteAt pl o).toNat + (byteAt pl (o + 1)).toNat * 256 + (byteAt pl (o + 2)).toNat * 65536 : Nat)
  | .fb => toSigned (byteAt pl (L.hi.get (operatorOf i))) * 10 + toSigned (byteAt pl o)
  | .bit0 => if byteAt pl o &&& 0x01 ≠ 0 then 1 else 0
  | .bit4 => if byteAt pl o &&& 0x10 ≠ 0 then 1 else 0

/-- What decode returns (44_patch_codec.md R170): the name count, NAME[0..7] and the 121 stored field values. -/
structure DecodedPatch where
  count  : Nat
  name   : Vector Byte 8
  fields : Vector (BitVec 24) 121
deriving DecidableEq, Repr

/-- Where the payload starts (44_patch_codec.md R163). -/
def payloadStart (u : List Byte) : Nat := if byteAt u 0x14 = 0x14 then 0x34 else 0x38

/-- `decode(U)` (44_patch_codec.md R164, R165, R170). The clearing of NAME[k] for k >= cnt (decision D28) is done here. -/
def decodePatch (L : Layout) (u : List Byte) : Except ErrorCode DecodedPatch :=
  if u.length < 0x15 then .error .malformedBuffer
  else if u.length < payloadStart u + 0x88 then .error .malformedBuffer
  else if 8 < (byteAt u 0x1C).toNat then .error .malformedBuffer
  else
    .ok { count := (byteAt u 0x1C).toNat
          name := Vector.ofFn fun k : Fin 8 => if k.val < (byteAt u 0x1C).toNat then byteAt u (0x20 + k.val) else 0
          fields := Vector.ofFn fun i => fieldCell i (decodeField L ((u.drop (payloadStart u)).take 0x88) i) }

/-- The sign of the fraction of a Feedback value (44_patch_codec.md R172). -/
def feedbackSign (fb : Int) : Int := if ((fb.natAbs % 10 : Nat) : Int) * fb < 0 then -1 else 1

/-- The curve byte of operator n+1 (44_patch_codec.md R175, 90_conflicts.md C1). -/
def curveByte (f : Vector (BitVec 24) 121) (n : Fin 4) : Byte :=
  ((f.get (lCurveAt n)).setWidth 8 &&& 1) ||| (((f.get (rCurveAt n)).setWidth 8 &&& 1) <<< 4)

/-- The payload bytes that encoding field i writes: the encode column of 44_patch_codec.md R161, with R172 and R173 for
FB and R175 for the curve pair. -/
def fieldWrites (L : Layout) (f : Vector (BitVec 24) 121) (i : Fin 121) : List (Nat × Byte) :=
  let o := L.off.get i
  let v := fieldValue i (f.get i)
  match kindAt i with
  | .u8 => [(o, byteOf v 0)]
  | .s8 => [(o, toUnsignedByte v)]
  | .u16 => [(o, byteOf v 0), (o + 1, byteOf v 1)]
  | .u24 => [(o, byteOf v 0), (o + 1, byteOf v 1), (o + 2, byteOf v 2)]
  | .fb => [(o, toUnsignedByte (feedbackSign v)), (L.hi.get (operatorOf i), toUnsignedByte (v / 10))]
  | .bit0 => [(o, curveByte f (operatorOf i))]
  | .bit4 => [(o, curveByte f (operatorOf i))]

/-- All writes of an encode in order: the fields by index, then the padding (44_patch_codec.md R176, R177). -/
def payloadWrites (L : Layout) (f : Vector (BitVec 24) 121) : List (Nat × Byte) :=
  (List.finRange 121).flatMap (fieldWrites L f) ++ [(0x85, 0xFF), (0x86, 0xFF), (0x87, 0xFF)]

/-- Byte o of a zeroed buffer after a list of writes: the last write to it, else 0x00 (44_patch_codec.md R171). -/
def writtenByte (ws : List (Nat × Byte)) (o : Nat) : Byte :=
  ws.foldl (fun b w => if w.1 = o then w.2 else b) 0x00

/-- `encodePayload(F)` (44_patch_codec.md R171 to R177). -/
def encodePayload (L : Layout) (f : Vector (BitVec 24) 121) : List Byte :=
  (List.range 0x88).map (writtenByte (payloadWrites L f))

namespace Machine

/-- NAME_LEN, NAME and F written with a decoded patch (44_patch_codec.md R170). -/
def State.setPatch (s : State) (p : DecodedPatch) : State :=
  { s with nameLen := BitVec.ofNat 4 p.count, name := p.name, f := p.fields }

/-- DECODE (44_patch_codec.md R170). -/
def execDecode (s : State) : Result :=
  withInput s fun u => orRaise s (decodePatch s.layout u) fun p => .next (s.setPatch p).complete

/-- ENCODE_PAYLOAD (44_patch_codec.md R177). -/
def execEncodePayload (s : State) : Result :=
  finishWithBytes s (encodePayload s.layout s.f)

end Machine

end Sys2Proof
end

