-- ==== Sys2Proof/Machine/Transcoder.lean ====
section
/-! DEFINITION. The 7-bit/8-bit transcoder: unpack78, pack87 and the commands UNPACK78 and PACK87 (41_bitpacker.md). -/

namespace Sys2Proof

/-- The data byte at position n of a group with mask m (41_bitpacker.md R107): bit 7 is set if the mask says so. -/
def unpackByte (m : Byte) (n : Nat) (d : Byte) : Byte :=
  if (m <<< (n + 1)) &&& 0x80 ≠ 0 then d ||| 0x80 else d

/-- The data bytes of a group from position n on (R107). -/
def unpackData (m : Byte) : Nat → List Byte → List Byte
  | _, [] => []
  | n, d :: ds => unpackByte m n d :: unpackData m (n + 1) ds

/-- One group: the mask byte and its data bytes (R107). -/
def unpackGroup : List Byte → List Byte
  | [] => []
  | m :: ds => unpackData m 0 ds

/-- All groups of a packed body (R105, R108). -/
def unpackBody (body : List Byte) : List Byte := (chunks 8 body).flatMap unpackGroup

/-- One trailing 0xF7 is stripped (R103). -/
def stripTerminator (body : List Byte) : List Byte :=
  if body.getLast? = some 0xF7 then body.dropLast else body

/-- `unpack78` (R102 to R108). -/
def unpack78 (b : List Byte) : Except ErrorCode (List Byte) :=
  if b.length < 9 then .error .malformedBuffer
  else
    let d := stripTerminator (b.drop 9)
    if d.length = 0 then .error .malformedBuffer
    else if d.length % 8 = 1 then .error .malformedBuffer
    else .ok (unpackBody d)

/-- The mask of a chunk from position j on (R112): bit 7 of the byte at position j goes to mask bit 6 - j. -/
def packMask : Nat → List Byte → Byte
  | _, [] => 0
  | j, c :: cs => ((c &&& 0x80) >>> (j + 1)) ||| packMask (j + 1) cs

/-- One group: the mask byte and the data bytes with bit 7 cleared (R112). -/
def packChunk (c : List Byte) : List Byte := packMask 0 c :: c.map (· &&& 0x7F)

/-- All groups of a body (R111, R112). -/
def packBody (body : List Byte) : List Byte := (chunks 7 body).flatMap packChunk

/-- The 9-byte prefix passed through and the packed body (R110). -/
def packMessage (b : List Byte) : List Byte := b.take 9 ++ packBody (b.drop 9)

/-- `pack87` (R110 to R114). -/
def pack87 (b : List Byte) : Except ErrorCode (List Byte) :=
  if b.length < 9 then .error .malformedBuffer else .ok (packMessage b)

namespace Machine

/-- UNPACK78 (41_bitpacker.md R109). -/
def execUnpack78 (s : State) : Result :=
  withInput s fun b => orRaise s (unpack78 b) (finishWithBytes s)

/-- PACK87 (41_bitpacker.md R115). -/
def execPack87 (s : State) : Result :=
  withInput s fun b => orRaise s (pack87 b) (finishWithBytes s)

end Machine

end Sys2Proof
end

