-- ==== Sys2Proof/Machine/Framer.lean ====
section
/-! DEFINITION. The SysEx message framer: FRAME, ENCODE_BURST and DECODE_INBOUND (45_framer.md). -/

namespace Sys2Proof

/-- `frame(seq, body)` for a device header (45_framer.md R201). -/
def frameMessage (header : List Byte) (seq : Byte) (body : List Byte) : List Byte :=
  packMessage (header ++ [seq] ++ body) ++ [0xF7]

/-- ascii("FMTC") (45_framer.md R205). -/
def tagFMTC : List Byte := [0x46, 0x4D, 0x54, 0x43]

/-- ascii("FMNM") (45_framer.md R205). -/
def tagFMNM : List Byte := [0x46, 0x4D, 0x4E, 0x4D]

/-- ascii("TPDT") (45_framer.md R205). -/
def tagTPDT : List Byte := [0x54, 0x50, 0x44, 0x54]

/-- The frame size of a name length (45_framer.md R203). -/
def frameSize (nl : Nat) : Word := if nl = 4 then 0xBC else 0xC0

/-- The FMNM record length of a name length (45_framer.md R203). -/
def recordLength (nl : Nat) : Word := if nl = 4 then 0x14 else 0x18

/-- The size of the name area (45_framer.md R203). -/
def nameAreaSize (nl : Nat) : Nat := if nl = 4 then 4 else 8

/-- The name area: the characters, then 0xFF (45_framer.md R203, 90_conflicts.md C2). -/
def nameArea (nl : Nat) (name : List Byte) : List Byte :=
  name ++ List.replicate (nameAreaSize nl - nl) 0xFF

/-- Message 1's fields (45_framer.md R204). -/
def declareBody (nl : Nat) : List Byte := le32 4 ++ le32 (frameSize nl)

/-- Message 2's raw bytes after the 9-byte prefix (45_framer.md R205, 44_patch_codec.md R162). -/
def dataBody (nl : Nat) (name payload : List Byte) : List Byte :=
  tagFMTC ++ le32 (frameSize nl) ++ le32 0 ++ le32 2 ++
  tagFMNM ++ le32 (recordLength nl) ++ le32 0 ++ le32 (BitVec.ofNat 32 nl) ++ nameArea nl name ++
  tagTPDT ++ le32 0x98 ++ le32 0 ++ le32 1 ++ payload

/-- The three messages of a burst and the checksum in the third (45_framer.md R204 to R207). -/
structure Burst where
  m1  : List Byte
  m2  : List Byte
  m3  : List Byte
  crc : Word
deriving DecidableEq, Repr

/-- `burst(NAME, nl, F)` (45_framer.md R203 to R207). The checksum covers message 2's raw bytes from offset 9 on (R208). -/
def burst (header : List Byte) (L : Layout) (nl : Nat) (name : List Byte) (f : Vector (BitVec 24) 121) : Burst :=
  let raw := dataBody nl name (encodePayload L f)
  let c := crc32 raw
  { m1 := frameMessage header 0x01 (declareBody nl)
    m2 := frameMessage header 0x02 raw
    m3 := frameMessage header 0x03 (le32 c)
    crc := c }

/-- `decodeInbound(B)` (45_framer.md R212, R214). -/
def decodeInbound (L : Layout) (b : List Byte) : Except ErrorCode DecodedPatch :=
  if b.length ≤ 20 then .error .malformedBuffer
  else
    match unpack78 b with
    | .error e => .error e
    | .ok u => decodePatch L u

namespace Machine

/-- FRAME (45_framer.md R202). -/
def execFrame (seq : Byte) (s : State) : Result :=
  withInput s fun b => finishWithBytes s (frameMessage s.header seq b)

/-- The burst of the state's NAME_LEN, NAME and F (45_framer.md R211: one snapshot). -/
def State.burst (s : State) : Burst :=
  Sys2Proof.burst s.header s.layout s.nameLen.toNat (s.nameBytes s.nameLen.toNat) s.f

/-- The results of ENCODE_BURST: the messages back to back in OBUF, their lengths, and CRC (45_framer.md R210). -/
def State.storeBurst (s : State) (b : Burst) : State :=
  { ((s.writeObuf 0 b.m1).writeObuf b.m1.length b.m2).writeObuf (b.m1.length + b.m2.length) b.m3 with
    msgLen0 := BitVec.ofNat 16 b.m1.length
    msgLen1 := BitVec.ofNat 16 b.m2.length
    msgLen2 := BitVec.ofNat 16 b.m3.length
    outLen := BitVec.ofNat 16 (b.m1.length + b.m2.length + b.m3.length)
    crc := b.crc }

/-- ENCODE_BURST (45_framer.md R210). -/
def execEncodeBurst (s : State) : Result :=
  if s.nameLen.toNat < 4 ∨ 8 < s.nameLen.toNat then .next (s.raiseError .nameLength)
  else if s.outCap < s.burst.m1.length + s.burst.m2.length + s.burst.m3.length then .next (s.raiseError .bufferOverflow)
  else .next (s.storeBurst s.burst).complete

/-- DECODE_INBOUND (45_framer.md R213). -/
def execDecodeInbound (s : State) : Result :=
  withInput s fun b => orRaise s (decodeInbound s.layout b) fun p => .next (s.setPatch p).complete

end Machine

end Sys2Proof
end

