-- ==== Sys2Proof/Machine/Dispatch.lean ====
section
/-! DEFINITION. One arm per command: the meaning of each row of spec/opcode_table.json. -/

namespace Sys2Proof.Machine

def exec (i : Instr) (s : State) : Host.Outcome State Fault Refusal :=
  match i with
  | .unpack78 => Sys2Proof.Machine.execUnpack78 s
  | .pack87 => Sys2Proof.Machine.execPack87 s
  | .crc32 => Sys2Proof.Machine.execCrc32 s
  | .toSigned => Sys2Proof.Machine.execToSigned s
  | .toUnsigned => Sys2Proof.Machine.execToUnsigned s
  | .decode => Sys2Proof.Machine.execDecode s
  | .encodePayload => Sys2Proof.Machine.execEncodePayload s
  | .frame seq => Sys2Proof.Machine.execFrame seq s
  | .encodeBurst => Sys2Proof.Machine.execEncodeBurst s
  | .decodeInbound => Sys2Proof.Machine.execDecodeInbound s

end Sys2Proof.Machine
end

