-- ==== Sys2Proof/Machine/Hazard.lean ====
section
/-! DEFINITION. The operand hazard (10_state.md R42): what a command reads and writes, and its completion with
arbitrary results. -/

namespace Sys2Proof

/-- The operands and results of commands, as places the host can address. -/
inductive Place where
  | inLen | ibuf | convIn | nameLen | name | fields
  | outLen | obuf | msgLens | crc | convOut
deriving DecidableEq, Repr

/-- The operands each command reads (the Operands lines of R109, R115, R134, R152, R154, R170, R177, R202, R210, R213). -/
def Instr.operands : Instr → List Place
  | .unpack78 => [.inLen, .ibuf]
  | .pack87 => [.inLen, .ibuf]
  | .crc32 => [.inLen, .ibuf]
  | .toSigned => [.convIn]
  | .toUnsigned => [.convIn]
  | .decode => [.inLen, .ibuf]
  | .encodePayload => [.fields]
  | .frame _ => [.inLen, .ibuf]
  | .encodeBurst => [.nameLen, .name, .fields]
  | .decodeInbound => [.inLen, .ibuf]

/-- The results each command writes on success (10_state.md R22, column "written by engine"; R41). -/
def Instr.results : Instr → List Place
  | .unpack78 => [.outLen, .obuf]
  | .pack87 => [.outLen, .obuf]
  | .crc32 => [.crc]
  | .toSigned => [.convOut]
  | .toUnsigned => [.convOut]
  | .decode => [.nameLen, .name, .fields]
  | .encodePayload => [.outLen, .obuf]
  | .frame _ => [.outLen, .obuf]
  | .encodeBurst => [.outLen, .obuf, .msgLens, .crc]
  | .decodeInbound => [.nameLen, .name, .fields]

namespace Machine

/-- An arbitrary ERR and ECODE (10_state.md R42) that keep R28's ECODE = 0 when ERR = 0. DESIGN CHOICE: with ERR = 1 ECODE is
any byte, also a code that R241 reserves (0x06, 0x07..0xFF) or 0 (notes/assumptions/9.md). -/
def Status.arbitrary (t : Status) (n : Nat) : Status :=
  { t with
    busy := false
    done := true
    err := (Config.freeWord n 0).getLsbD 0
    ecode := if (Config.freeWord n 0).getLsbD 0 then Config.freeByte n 0 else 0 }

/-- OBUF[0..k) and OUT_LEN arbitrary. -/
def State.arbitraryObuf (s : State) (n k : Nat) : State :=
  { s.writeObuf 0 ((List.range k).map fun j => Config.freeByte n (16 + j)) with
    outLen := (Config.freeWord n 1).setWidth 16 }

/-- NAME_LEN, NAME and F arbitrary, each within its width. -/
def State.arbitraryPatch (s : State) (n : Nat) : State :=
  { s with
    nameLen := (Config.freeWord n 2).setWidth 4
    name := Vector.ofFn fun k : Fin 8 => Config.freeByte n (1 + k.val)
    f := Vector.ofFn fun i : Fin 121 => fieldCell i ((Config.freeWord n (16 + i.val)).toNat : Int) }

/-- The results of a command whose operand the host wrote while it was pending: each result location holds an arbitrary
value (10_state.md R42). Where the length of an OBUF result depends on the operands the longest one is taken
(notes/assumptions/8.md). -/
def State.arbitraryResults (i : Instr) (s : State) (n : Nat) : State :=
  match i with
  | .unpack78 => s.arbitraryObuf n s.outCap
  | .pack87 => s.arbitraryObuf n s.outCap
  | .crc32 => { s with crc := Config.freeWord n 3 }
  | .toSigned => { s with convOut := Config.freeWord n 4 }
  | .toUnsigned => { s with convOut := Config.freeWord n 4 }
  | .decode => s.arbitraryPatch n
  | .encodePayload => s.arbitraryObuf n 0x88
  | .frame _ => s.arbitraryObuf n s.outCap
  | .encodeBurst =>
    { s.arbitraryObuf n 265 with
      msgLen0 := (Config.freeWord n 5).setWidth 16
      msgLen1 := (Config.freeWord n 6).setWidth 16
      msgLen2 := (Config.freeWord n 7).setWidth 16
      crc := Config.freeWord n 3 }
  | .decodeInbound => s.arbitraryPatch n

/-- The completion of a command under the operand hazard (10_state.md R42). -/
def State.completeArbitrarily (i : Instr) (s : State) : State :=
  { s.arbitraryResults i s.draws with
    status := s.status.arbitrary s.draws
    hazard := false
    draws := s.draws + 1 }

/-- A command's outcome with the operand hazard taken into account. A fault stays a fault
(20_memory.md R70, notes/assumptions/6.md). -/
def settleHazard (i : Instr) (s : State) (o : Result) : Result :=
  match o with
  | .next t => if s.hazard then .next (s.completeArbitrarily i) else .next t
  | .fault r => .fault r
  | .refused r => .refused r

end Machine

end Sys2Proof
end

