-- ==== Sys2Proof/Machine/Engine.lean ====
section
/-! DEFINITION. The engine's step (10_state.md R40). -/

namespace Sys2Proof.Machine

/-- The engine's indivisible step: PEND is decoded, an illegal word completes with ILLEGAL_COMMAND before any operand
is read (60_exceptions.md R242), a command is performed. -/
def engineStep (s : State) : Result :=
  match decodeCommand s.pend with
  | .error _ => .next (s.raiseError .illegalCommand)
  | .ok i => settleHazard i s (exec i s)

/-- PEND as if the host's stream had just delivered the command word w with no LATENCY left: the engine's step is next. -/
def State.pendNow (s : State) (w : Word) : State :=
  { s with pend := w, status := Status.accepted, wait := 0, hazard := false }

end Sys2Proof.Machine
end

