-- ==== Sys2Proof/Machine/Bus.lean ====
section
/-! DEFINITION. Host bus accesses at the block window (20_memory.md R60 to R71) and the events of the host's stream. -/

namespace Sys2Proof

/-- The window address of a register (10_state.md R22). -/
def RegName.addr : RegName → Half
  | .cmd => 0x0000
  | .status => 0x0004
  | .inLen => 0x0008
  | .outLen => 0x000C
  | .msgLen0 => 0x0010
  | .msgLen1 => 0x0014
  | .msgLen2 => 0x0018
  | .crc => 0x001C
  | .convIn => 0x0020
  | .convOut => 0x0024
  | .hdrLo => 0x0028
  | .hdrHi => 0x002C
  | .nameLen => 0x0040
  | .nameW0 => 0x0044
  | .nameW1 => 0x0048
  | .field i => BitVec.ofNat 16 (0x0100 + 4 * i.val)

/-- What an address of the block window selects (20_memory.md R61). -/
inductive Target where
  | reg (r : RegName)
  | ibuf (i : Nat)
  | obuf (i : Nat)
  | rom (k : Byte)
deriving DecidableEq, Repr

/-- The operand or result that a target belongs to (10_state.md R41, R42). -/
def Target.place : Target → Option Place
  | .reg .cmd => none
  | .reg .status => none
  | .reg .inLen => some .inLen
  | .reg .outLen => some .outLen
  | .reg .msgLen0 => some .msgLens
  | .reg .msgLen1 => some .msgLens
  | .reg .msgLen2 => some .msgLens
  | .reg .crc => some .crc
  | .reg .convIn => some .convIn
  | .reg .convOut => some .convOut
  | .reg .hdrLo => none
  | .reg .hdrHi => none
  | .reg .nameLen => some .nameLen
  | .reg .nameW0 => some .name
  | .reg .nameW1 => some .name
  | .reg (.field _) => some .fields
  | .ibuf _ => some .ibuf
  | .obuf _ => some .obuf
  | .rom _ => none

/-- The registers other than F at a word-aligned address (10_state.md R22). -/
def plainRegisterAt (a : Nat) : Option RegName :=
  match a with
  | 0x00 => some .cmd
  | 0x04 => some .status
  | 0x08 => some .inLen
  | 0x0C => some .outLen
  | 0x10 => some .msgLen0
  | 0x14 => some .msgLen1
  | 0x18 => some .msgLen2
  | 0x1C => some .crc
  | 0x20 => some .convIn
  | 0x24 => some .convOut
  | 0x28 => some .hdrLo
  | 0x2C => some .hdrHi
  | 0x40 => some .nameLen
  | 0x44 => some .nameW0
  | 0x48 => some .nameW1
  | _ => none

/-- The register at a word-aligned address below 0x1000 (20_memory.md R61); `none` is a reserved address. -/
def registerAt (a : Nat) : Option RegName :=
  if h : 0x0100 ≤ a ∧ a < 0x02E4 then some (.field ⟨(a - 0x0100) / 4, by omega⟩) else plainRegisterAt a

/-- The buffer index an access of width w at byte offset i may use (20_memory.md R64): 8-bit accesses inside the buffer,
32-bit accesses at multiples of 4 whose four bytes are all inside, no 16-bit access. -/
def bufferIndex (cap : Nat) (w : Width) (i : Nat) : Option Nat :=
  match w with
  | .w8 => if i < cap then some i else none
  | .w16 => none
  | .w32 => if i % 4 = 0 ∧ i + 4 ≤ cap then some i else none

/-- The target of an access (20_memory.md R61, R64); `none` is a bus error response. The windows start at multiples of
4, so an offset is aligned exactly when its address is. -/
def busTarget (p : Params) (w : Width) (addr : Half) : Option Target :=
  let a := addr.toNat
  if a < 0x1000 then
    if w = .w32 ∧ a % 4 = 0 then (registerAt a).map .reg else none
  else if a < 0x2000 then (bufferIndex p.inCap w (a - 0x1000)).map .ibuf
  else if a < 0x3000 then (bufferIndex p.outCap w (a - 0x2000)).map .obuf
  else if a < 0x3400 then
    if w = .w32 ∧ a % 4 = 0 then some (.rom (BitVec.ofNat 8 ((a - 0x3000) / 4))) else none
  else none

namespace Machine

/-- The current value of a register as the host reads it (10_state.md R22 to R33). -/
def State.readReg (s : State) : RegName → Word
  | .cmd => 0
  | .status => s.status.word
  | .inLen => s.inLen.setWidth 32
  | .outLen => s.outLen.setWidth 32
  | .msgLen0 => s.msgLen0.setWidth 32
  | .msgLen1 => s.msgLen1.setWidth 32
  | .msgLen2 => s.msgLen2.setWidth 32
  | .crc => s.crc
  | .convIn => s.convIn
  | .convOut => s.convOut
  | .hdrLo => s.hdrLo
  | .hdrHi => s.hdrHi
  | .nameLen => s.nameLen.setWidth 32
  | .nameW0 => s.nameW0
  | .nameW1 => s.nameW1
  | .field i => s.readField i

/-- A host write to a register: read-only registers ignore it (10_state.md R22, R23, R24). -/
def State.writeReg (s : State) (r : RegName) (w : Word) : State :=
  match r with
  | .cmd => s.cmdWrite w
  | .status => s
  | .inLen => { s with inLen := w.setWidth 16 }
  | .outLen => s
  | .msgLen0 => s
  | .msgLen1 => s
  | .msgLen2 => s
  | .crc => s
  | .convIn => { s with convIn := w }
  | .convOut => s
  | .hdrLo => s
  | .hdrHi => s
  | .nameLen => { s with nameLen := w.setWidth 4 }
  | .nameW0 => s.writeNameW0 w
  | .nameW1 => s.writeNameW1 w
  | .field i => s.writeField i w.toInt

/-- A buffer byte as the host reads it: an unwritten byte reads as an arbitrary value (20_memory.md R70). -/
def State.hostByte (s : State) (a slot : Nat) : Byte := (s.mem.read a).getD (Config.freeByte s.draws slot)

/-- A buffer read: one byte in bits [7:0], or four bytes little-endian (20_memory.md R63). DESIGN CHOICE: the response of an
8-bit read has 0 in bits [31:8], which R63 leaves open (notes/assumptions/30.md). -/
def State.readBuffer (s : State) (w : Width) (a : Nat) : Word :=
  match w with
  | .w8 => (s.hostByte a 0).setWidth 32
  | .w16 => (s.hostByte a 0).setWidth 32
  | .w32 => wordOfBytes (s.hostByte a 0) (s.hostByte (a + 1) 1) (s.hostByte (a + 2) 2) (s.hostByte (a + 3) 3)

/-- The bytes a buffer write of width w stores (20_memory.md R63). -/
def storedBytes (w : Width) (data : Word) : List Byte :=
  match w with
  | .w8 => [data.extractLsb' 0 8]
  | .w16 => [data.extractLsb' 0 8]
  | .w32 => le32 data

/-- The current value of a target. -/
def State.readTarget (s : State) (w : Width) (t : Target) : Word :=
  match t with
  | .reg r => s.readReg r
  | .ibuf i => s.readBuffer w (ibufBase + i)
  | .obuf i => s.readBuffer w (obufBase + i)
  | .rom k => crcRom k

/-- A host write to a target: OBUF and CRCROM ignore it (20_memory.md R68). -/
def State.writeTarget (s : State) (w : Width) (t : Target) (data : Word) : State :=
  match t with
  | .reg r => s.writeReg r data
  | .ibuf i => { s with mem := s.mem.writeBytes (ibufBase + i) (storedBytes w data) }
  | .obuf _ => s
  | .rom _ => s

/-- The places of one column of the pending command's description: none if the word in PEND is illegal. -/
def State.pendingPlaces (s : State) (col : Instr → List Place) : List Place :=
  match decodeCommand s.pend with
  | .ok i => if s.status.busy then col i else []
  | .error _ => []

/-- Whether target t is in the given places. -/
def inPlaces (t : Target) (ps : List Place) : Bool :=
  match t.place with
  | none => false
  | some p => ps.contains p

/-- An arbitrary value of an access of width w (10_state.md R41; notes/assumptions/10.md). DESIGN CHOICE: bits [31:8] of an
8-bit access are 0 here too (notes/assumptions/30.md). -/
def State.arbitraryData (s : State) (w : Width) : Word :=
  match w with
  | .w8 => (Config.freeByte s.draws 4).setWidth 32
  | .w16 => (Config.freeByte s.draws 4).setWidth 32
  | .w32 => Config.freeWord s.draws 8

/-- The response to a host read (20_memory.md R61 to R65, R70; 10_state.md R41 for a result of the pending command). -/
def State.busRead (s : State) (w : Width) (addr : Half) : BusResp :=
  match busTarget s.par.1 w addr with
  | none => .busError
  | some t =>
    if inPlaces t (s.pendingPlaces Instr.results) then .data (s.arbitraryData w) else .data (s.readTarget w t)

/-- A host read: only the response changes (20_memory.md R68); the draw counter is the model's own. -/
def State.hostRead (s : State) (w : Width) (addr : Half) : State :=
  { s with resp := some (s.busRead w addr), draws := s.draws + 1 }

/-- A write without bus error is acknowledged, also one that is ignored (notes/assumptions/24.md); `operand` says whether it wrote an operand of the pending command. -/
def State.acknowledge (s : State) (operand : Bool) : State :=
  { s with resp := some .ack, hazard := s.hazard || operand }

/-- A host write (20_memory.md R61 to R68). It sets the operand hazard if it writes an operand of the pending command
(10_state.md R42). -/
def State.hostWrite (s : State) (w : Width) (addr : Half) (data : Word) : State :=
  match busTarget s.par.1 w addr with
  | none => { s with resp := some .busError }
  | some t => (s.writeTarget w t data).acknowledge (inPlaces t (s.pendingPlaces Instr.operands))

/-- The data the host's last read returned; arbitrary if its last access returned none (notes/assumptions/16.md). -/
def State.lastData (s : State) : Word :=
  match s.resp with
  | some (.data d) => d
  | _ => Config.freeWord s.draws 9

/-- `COPY OBUF[i..j) -> IBUF[k]` as bus operations (30_encoding.md R87). -/
def copyOps (i j k : Nat) : List BusOp :=
  (List.range (j - i)).flatMap fun t =>
    [.read .w8 (BitVec.ofNat 16 (obufBase + i + t)), .writeLast .w8 (BitVec.ofNat 16 (ibufBase + k + t))]

/-- The expansion of LOOPBACK for a value n of OUT_LEN (30_encoding.md R88). -/
def loopbackOps (n : Half) : List BusOp :=
  copyOps 0 n.toNat 0 ++ [.write .w32 RegName.inLen.addr (n.setWidth 32)]

/-- The value the host knows as OUT_LEN (notes/assumptions/15.md). -/
def State.knownOutLen (s : State) : Half :=
  match s.busRead .w32 RegName.outLen.addr with
  | .data d => d.setWidth 16
  | _ => s.outLen

/-- One event of the host's stream. -/
def State.hostEvent (s : State) (op : BusOp) : State :=
  match op with
  | .write w addr data => s.hostWrite w addr data
  | .read w addr => s.hostRead w addr
  | .writeLast w addr => { s with draws := s.draws + 1 }.hostWrite w addr s.lastData
  | .poll => if s.status.busy then { s.hostRead .w32 RegName.status.addr with host := .poll :: s.host }
             else s.hostRead .w32 RegName.status.addr
  | .loopback => { s with host := loopbackOps s.knownOutLen ++ s.host, draws := s.draws + 1 }
  | .reset => s.resetInput

/-- One bus cycle: a cycle of the pending command's LATENCY passes, and the host's next event happens, if there is one
(70_reset_and_hazards.md R281, R282). -/
def State.busCycle (s : State) : State :=
  match s.host with
  | [] => { s with wait := s.wait - 1 }
  | op :: rest => { s with wait := s.wait - 1, host := rest }.hostEvent op

end Machine

end Sys2Proof
end

