-- ==== Sys2Proof/Machine/HostProgram.lean ====
section
/-! DEFINITION. Host programs: statements as sequences of bus operations (30_encoding.md R87 to R89). -/

namespace Sys2Proof

/-- 8-bit writes of bytes to IBUF from index i on (30_encoding.md R87, WRB). -/
def wrbOps : Nat → List Byte → List BusOp
  | _, [] => []
  | i, b :: bs => .write .w8 (BitVec.ofNat 16 (Machine.ibufBase + i)) (b.setWidth 32) :: wrbOps (i + 1) bs

/-- CMD with a 32-bit word (30_encoding.md R87). -/
def cmdOps (w : Word) : List BusOp := [.write .w32 RegName.cmd.addr w]

/-- The word of four name bytes from index k on, absent ones 0x00 (30_encoding.md R88, SETNAME). -/
def nameWord (s : List Byte) (k : Nat) : Word :=
  wordOfBytes (s.getD k 0) (s.getD (k + 1) 0) (s.getD (k + 2) 0) (s.getD (k + 3) 0)

/-- The bus operations of a statement (30_encoding.md R87) or pseudo-statement (R88). -/
def Stmt.ops : Stmt → List BusOp
  | .wr r v => [.write .w32 r.addr v]
  | .wrb i bs => wrbOps i bs
  | .cmd c => cmdOps (encodeCommand c)
  | .cmdRaw w => cmdOps w
  | .rd r => [.read .w32 r.addr]
  | .rdb i => [.read .w8 (BitVec.ofNat 16 (Machine.obufBase + i))]
  | .poll => [.poll]
  | .copy i j k => Machine.copyOps i j k
  | .run c => cmdOps (encodeCommand c) ++ [.poll]
  | .loadin bs => wrbOps 0 bs ++ [.write .w32 RegName.inLen.addr (BitVec.ofNat 32 bs.length)]
  | .setname s =>
    [.write .w32 RegName.nameW0.addr (nameWord s 0), .write .w32 RegName.nameW1.addr (nameWord s 4),
     .write .w32 RegName.nameLen.addr (BitVec.ofNat 32 s.length)]
  | .loopback => [.loopback]

namespace Machine

/-- A host program appended to the host's stream. -/
def State.load (s : State) (prog : List Stmt) : State := { s with host := s.host ++ prog.flatMap Stmt.ops }

end Machine

end Sys2Proof
end

