-- ==== Sys2Proof/Machine/Step.lean ====
section
/-! DEFINITION. One step of the block and its host: the engine's step when the pending command's LATENCY is over, else
one bus cycle (10_state.md R40, 20_memory.md R67, 60_exceptions.md R247). -/

namespace Sys2Proof.Machine

/-- One step. The engine goes first when its time has come (60_exceptions.md R247). -/
def step (s : State) : Host.Outcome State Fault Refusal :=
  if s.status.busy = true ∧ s.wait = 0 then engineStep s else .next s.busCycle

/-- The state whose next step runs the command word with these bits. A number that is no 32-bit word leaves the state
as it is (30_encoding.md R85; notes/assumptions/17.md). -/
def State.withFetchWord (s : State) (nbits w : Nat) : State :=
  match tableWord nbits w with
  | some word => s.pendNow word
  | none => s

end Sys2Proof.Machine
end

