-- ==== Sys2Proof/Safety.lean ====
section
/-! DEFINITION. The invariant of the machine and what counts as a safe run, in the terms claims use. -/

namespace Sys2Proof.Machine

/-- A window address inside IBUF or OBUF (20_memory.md R61). -/
abbrev inBuffers (p : Params) (a : Nat) : Prop :=
  (ibufBase ≤ a ∧ a < ibufBase + p.inCap) ∨ (obufBase ≤ a ∧ a < obufBase + p.outCap)

/-- Every field cell holds a value of its field's width (10_state.md R24). -/
abbrev FieldsFit (f : Vector (BitVec 24) 121) : Prop := ∀ i : Fin 121, (f.get i).toNat < 2 ^ (kindAt i).width

/-- What 10_state.md R28 says of every reachable STATUS. -/
abbrev StatusConsistent (t : Status) : Prop :=
  (t.busy = true → t.done = false ∧ t.err = false ∧ t.ecode = 0) ∧ (t.err = false → t.ecode = 0)

/-- The invariant of the machine: memory in canonical form and inside the buffers, fields within their widths, STATUS
consistent, and no latency or hazard without a pending command. -/
structure Inv (s : State) : Prop where
  memory : s.mem.wf
  buffers : ∀ c ∈ s.mem, inBuffers s.par.1 c.1
  fields : FieldsFit s.f
  status : StatusConsistent s.status
  idle : s.status.busy = false → s.wait = 0 ∧ s.hazard = false
  pending : s.hazard = true → ∃ i, decodeCommand s.pend = .ok i

/-- The places a host leaves alone while BUSY = 1: CMD (70_reset_and_hazards.md R277) and every operand (R276). -/
def protectedWhileBusy (t : Target) : Bool :=
  t == .reg .cmd || inPlaces t [.inLen, .ibuf, .convIn, .nameLen, .name, .fields]

/-- A write that respects R276 and R277 in state s. -/
def writeRespects (s : State) (w : Width) (a : Half) : Bool :=
  match busTarget s.par.1 w a with
  | none => true
  | some t => !(s.status.busy && protectedWhileBusy t)

/-- A host event that respects the hazards of 70_reset_and_hazards.md R275 to R277 in state s: while BUSY = 1 it reads no
result of the pending command, writes no operand and does not write CMD. -/
def respectsHazards (s : State) (op : BusOp) : Bool :=
  match op with
  | .write w a _ => writeRespects s w a
  | .writeLast w a => writeRespects s w a
  | .read w a =>
    match busTarget s.par.1 w a with
    | none => true
    | some t => !inPlaces t (s.pendingPlaces Instr.results)
  | .poll => true
  | .loopback => !s.status.busy
  | .reset => true

/-- One message as the host transmits it, with the times of its first and last byte. -/
structure Transmission where
  bytes : List Byte
  start : Nat
  stop  : Nat
deriving DecidableEq, Repr

/-- The host's duty after a burst (70_reset_and_hazards.md R278): messages 1, 2 and 3 in that order, each starting at least
MSG_GAP after the end of the one before. The block cannot see it. -/
structure TransmitsBurst (t : State) (m1 m2 m3 : Transmission) : Prop where
  first  : t.burstMessage 0 = some m1.bytes
  second : t.burstMessage 1 = some m2.bytes
  third  : t.burstMessage 2 = some m3.bytes
  gap12  : m1.stop + Config.msgGap ≤ m2.start
  gap23  : m2.stop + Config.msgGap ≤ m3.start

/-- IBUF[0..IN_LEN) holds `b`, all of it written, and IN_LEN is in range: the operand of every command that reads IBUF. -/
structure HasInput (s : State) (b : List Byte) : Prop where
  length : b.length = s.inLen.toNat
  inRange : s.inLen.toNat ≤ s.inCap
  bytes : ∀ k (h : k < b.length), s.mem.read (ibufBase + k) = some b[k]

/-- OBUF from index i on holds `bs`. -/
abbrev ObufHolds (t : State) (i : Nat) (bs : List Byte) : Prop :=
  ∀ k (h : k < bs.length), t.mem.read (obufBase + i + k) = some bs[k]

/-- Every byte of memory outside OBUF[0..n) reads in t as in s. -/
abbrev SameOutsideObuf (s t : State) (n : Nat) : Prop :=
  ∀ a, a < obufBase ∨ obufBase + n ≤ a → t.mem.read a = s.mem.read a

/-- STATUS after a completion without error, spelled out (10_state.md R40). -/
abbrev successStatus (t : Status) : Status := { t with busy := false, done := true }

/-- STATUS after a completion with error code c, spelled out (60_exceptions.md R245). -/
abbrev errorStatus (t : Status) (c : Byte) : Status := { t with busy := false, done := true, err := true, ecode := c }

/-- s with only the registers and buffer bytes that command i writes on success taken from t
(10_state.md R22, column "written by engine"). -/
def State.withResults (i : Instr) (s t : State) : State :=
  match i with
  | .unpack78 => { s with mem := t.mem, outLen := t.outLen }
  | .pack87 => { s with mem := t.mem, outLen := t.outLen }
  | .crc32 => { s with crc := t.crc }
  | .toSigned => { s with convOut := t.convOut }
  | .toUnsigned => { s with convOut := t.convOut }
  | .decode => { s with nameLen := t.nameLen, name := t.name, f := t.f }
  | .encodePayload => { s with mem := t.mem, outLen := t.outLen }
  | .frame _ => { s with mem := t.mem, outLen := t.outLen }
  | .encodeBurst =>
    { s with mem := t.mem, outLen := t.outLen, msgLen0 := t.msgLen0, msgLen1 := t.msgLen1, msgLen2 := t.msgLen2, crc := t.crc }
  | .decodeInbound => { s with nameLen := t.nameLen, name := t.name, f := t.f }

/-- Whether a command reads IBUF (its Operands line). -/
def readsIbuf (i : Instr) : Bool := i.operands.contains .ibuf

/-- Whether a command writes OBUF and OUT_LEN (10_state.md R22). -/
def writesObuf (i : Instr) : Bool := i.results.contains .obuf

/-- A command word whose operation would overwrite a burst in OBUF: a host that has not transmitted it whole does not
write this word to CMD (70_reset_and_hazards.md R279). -/
def overwritesObuf (w : Word) : Bool :=
  match decodeCommand w with
  | .ok i => writesObuf i
  | .error _ => false

/-- The commands that write a register, spelled out: the column "written by engine" of 10_state.md R22 without STATUS. -/
def writesRegister (r : RegName) (i : Instr) : Bool :=
  match r with
  | .outLen =>
    match i with
    | .unpack78 => true
    | .pack87 => true
    | .crc32 => false
    | .toSigned => false
    | .toUnsigned => false
    | .decode => false
    | .encodePayload => true
    | .frame _ => true
    | .encodeBurst => true
    | .decodeInbound => false
  | .msgLen0 => i == .encodeBurst
  | .msgLen1 => i == .encodeBurst
  | .msgLen2 => i == .encodeBurst
  | .crc => i == .crc32 || i == .encodeBurst
  | .convOut => i == .toSigned || i == .toUnsigned
  | .nameLen => i == .decode || i == .decodeInbound
  | .nameW0 => i == .decode || i == .decodeInbound
  | .nameW1 => i == .decode || i == .decodeInbound
  | .field _ => i == .decode || i == .decodeInbound
  | .cmd => false
  | .status => false
  | .inLen => false
  | .convIn => false
  | .hdrLo => false
  | .hdrHi => false

/-- No pending command writes register r (10_state.md R41): the block is idle, the word in PEND is illegal, or it is a
command that does not write it. -/
abbrev NotBeingWritten (s : State) (r : RegName) : Prop :=
  s.status.busy = false ∨ ∀ i, decodeCommand s.pend = .ok i → writesRegister r i = false

/-- q is the packed form of the 9-byte prefix h and the body d (41_bitpacker.md R101, R110 to R113): groups of a mask byte
and up to seven data bytes, bit 7 of the byte at position n in mask bit 6 - n, mask bit 7 and the bits of absent
positions 0. -/
structure IsPacked (h d q : List Byte) : Prop where
  length : q.length = 9 + d.length + (d.length + 6) / 7
  headBytes : q.take 9 = h
  data : ∀ g n, n < 7 → 7 * g + n < d.length → q.getD (9 + 8 * g + 1 + n) 0 = d.getD (7 * g + n) 0 &&& 0x7F
  mask : ∀ g, 7 * g < d.length → (q.getD (9 + 8 * g) 0).getLsbD 7 = false ∧
    ∀ n, n < 7 → (q.getD (9 + 8 * g) 0).getLsbD (6 - n) = (d.getD (7 * g + n) 0).getLsbD 7

/-- r is what the packed body d unpacks to (41_bitpacker.md R101, R107, R108). -/
structure IsUnpacked (d r : List Byte) : Prop where
  length : r.length = d.length - (d.length + 7) / 8
  data : ∀ g n, n < 7 → 7 * g + n < r.length →
    r.getD (7 * g + n) 0 =
      if (d.getD (8 * g) 0).getLsbD (6 - n) then d.getD (8 * g + 1 + n) 0 ||| 0x80 else d.getD (8 * g + 1 + n) 0

/-- d is the packed body of the message b: the bytes after the 9-byte prefix, without one terminating 0xF7
(41_bitpacker.md R102, R103). -/
abbrev IsBodyOf (b d : List Byte) : Prop :=
  9 ≤ b.length ∧ (b.drop 9 = d ++ [0xF7] ∨ (b.drop 9 = d ∧ d.getLast? ≠ some 0xF7))

/-- The unpack78 cases of MALFORMED_BUFFER (60_exceptions.md R244, cases 1 to 3). -/
def unpackMalformed (b : List Byte) : Prop :=
  b.length < 9 ∨ ∃ d, IsBodyOf b d ∧ (d = [] ∨ d.length % 8 = 1)

/-- The decode cases of MALFORMED_BUFFER (60_exceptions.md R244, cases 5 and 6; 44_patch_codec.md R163 to R165). -/
def decodeMalformed (u : List Byte) : Prop :=
  u.length < 0x15 ∨ u.length < (if u.getD 0x14 0 = 0x14 then 0x34 else 0x38) + 0x88 ∨ 8 < (u.getD 0x1C 0).toNat

/-- pl is the payload of the field registers f under layout L (44_patch_codec.md R161, R172 to R176). -/
structure IsPayload (L : Layout) (f : Vector (BitVec 24) 121) (pl : List Byte) : Prop where
  length : pl.length = 0x88
  padding : pl.drop 0x85 = [0xFF, 0xFF, 0xFF]
  fields : ∀ i : Fin 121,
    match kindAt i with
    | .u8 => pl.getD (L.off.get i) 0 = (f.get i).extractLsb' 0 8
    | .s8 => pl.getD (L.off.get i) 0 = (f.get i).extractLsb' 0 8
    | .u16 => pl.getD (L.off.get i) 0 = (f.get i).extractLsb' 0 8 ∧
              pl.getD (L.off.get i + 1) 0 = (f.get i).extractLsb' 8 8
    | .u24 => pl.getD (L.off.get i) 0 = (f.get i).extractLsb' 0 8 ∧
              pl.getD (L.off.get i + 1) 0 = (f.get i).extractLsb' 8 8 ∧
              pl.getD (L.off.get i + 2) 0 = (f.get i).extractLsb' 16 8
    | .fb => pl.getD (L.off.get i) 0 =
                (if ((f.get i).extractLsb' 0 16).toInt < 0 ∧ ((f.get i).extractLsb' 0 16).toInt % 10 ≠ 0 then 0xFF else 0x01) ∧
             pl.getD (L.hi.get (operatorOf i)) 0 = BitVec.ofInt 8 (((f.get i).extractLsb' 0 16).toInt / 10)
    | .bit0 => pl.getD (L.off.get i) 0 =
                0#3 ++ (f.get (rCurveAt (operatorOf i))).extractLsb' 0 1 ++ 0#3 ++ (f.get i).extractLsb' 0 1
    | .bit4 => pl.getD (L.off.get i) 0 =
                0#3 ++ (f.get i).extractLsb' 0 1 ++ 0#3 ++ (f.get (lCurveAt (operatorOf i))).extractLsb' 0 1

/-- The cell c is what field i holds after decoding the payload pl (44_patch_codec.md R161, R168, R169). -/
def IsDecodedField (L : Layout) (pl : List Byte) (i : Fin 121) (c : BitVec 24) : Prop :=
  match kindAt i with
  | .u8 => c = 0#16 ++ pl.getD (L.off.get i) 0
  | .s8 => c = 0#16 ++ pl.getD (L.off.get i) 0
  | .u16 => c = 0#8 ++ pl.getD (L.off.get i + 1) 0 ++ pl.getD (L.off.get i) 0
  | .u24 => c = pl.getD (L.off.get i + 2) 0 ++ pl.getD (L.off.get i + 1) 0 ++ pl.getD (L.off.get i) 0
  | .fb => c = 0#8 ++ BitVec.ofInt 16 ((pl.getD (L.hi.get (operatorOf i)) 0).toInt * 10 + (pl.getD (L.off.get i) 0).toInt)
  | .bit0 => c = 0#23 ++ BitVec.ofBool ((pl.getD (L.off.get i) 0).getLsbD 0)
  | .bit4 => c = 0#23 ++ BitVec.ofBool ((pl.getD (L.off.get i) 0).getLsbD 4)

/-- The patch registers of t are what the unpacked data message u decodes to: the count byte, the characters with NAME[k]
cleared from the count on, and every field from the payload at `start` (44_patch_codec.md R163, R164, R167, R170). -/
structure IsDecodedFrom (u : List Byte) (start : Nat) (t : State) : Prop where
  count : t.nameLen.toNat = (u.getD 0x1C 0).toNat
  name : ∀ k : Fin 8, t.name.get k = if k.val < (u.getD 0x1C 0).toNat then u.getD (0x20 + k.val) 0 else 0
  fields : ∀ i, IsDecodedField t.layout ((u.drop start).take 0x88) i (t.f.get i)

/-- The data message's raw bytes after its 9-byte prefix, spelled out (44_patch_codec.md R162, 45_framer.md R205). -/
def rawDataMessage (nl : Nat) (name payload : List Byte) : List Byte :=
  [0x46, 0x4D, 0x54, 0x43, if nl = 4 then 0xBC else 0xC0, 0, 0, 0, 0, 0, 0, 0, 2, 0, 0, 0,
   0x46, 0x4D, 0x4E, 0x4D, if nl = 4 then 0x14 else 0x18, 0, 0, 0, 0, 0, 0, 0, BitVec.ofNat 8 nl, 0, 0, 0] ++
  name ++ List.replicate ((if nl = 4 then 4 else 8) - nl) 0xFF ++
  [0x54, 0x50, 0x44, 0x54, 0x98, 0, 0, 0, 0, 0, 0, 0, 1, 0, 0, 0] ++ payload

/-- The bit-serial form of the CRC (42_checksum.md R136). -/
def crcBitSerial (xs : List Byte) : Word :=
  xs.foldl (fun c b => (List.range 8).foldl (fun c _ => if c.getLsbD 0 then 0xEDB88320#32 ^^^ (c >>> 1) else c >>> 1)
    (c ^^^ b.setWidth 32)) 0xFFFFFFFF#32 ^^^ 0xFFFFFFFF#32

/-- Decode after encode of a Feedback value (44_patch_codec.md R179). -/
def feedbackRoundTrip (v : Int) : Int :=
  10 * toSigned (toUnsignedByte (v / 10)) + (if v < 0 ∧ v % 10 ≠ 0 then -1 else 1)

/-- The accesses that get no bus error (20_memory.md R61, R64), spelled out. -/
def accessAllowed (p : Params) (w : Width) (a : Nat) : Prop :=
  match w with
  | .w8 => (0x1000 ≤ a ∧ a < 0x1000 + p.inCap) ∨ (0x2000 ≤ a ∧ a < 0x2000 + p.outCap)
  | .w16 => False
  | .w32 => a % 4 = 0 ∧
      (a < 0x30 ∨ (0x40 ≤ a ∧ a < 0x4C) ∨ (0x100 ≤ a ∧ a < 0x2E4) ∨ (0x3000 ≤ a ∧ a < 0x3400) ∨
       (0x1000 ≤ a ∧ a + 4 ≤ 0x1000 + p.inCap) ∨ (0x2000 ≤ a ∧ a + 4 ≤ 0x2000 + p.outCap))

/-- A word that is illegal, spelled out (30_encoding.md R84). -/
def illegalWord (w : Word) : Prop :=
  w.toNat % 256 = 0 ∨ 0x0B ≤ w.toNat % 256 ∨ (w.toNat % 256 ≠ 8 ∧ w.toNat / 256 ≠ 0) ∨
  (w.toNat % 256 = 8 ∧ w.toNat / 65536 ≠ 0)

/-- What the host reads back after writing w to a field of a kind (10_state.md R24), spelled out. -/
def fieldReadback (k : FieldKind) (w : Word) : Word :=
  match k with
  | .u8 => (w.extractLsb' 0 8).setWidth 32
  | .s8 => (w.extractLsb' 0 8).signExtend 32
  | .u16 => (w.extractLsb' 0 16).setWidth 32
  | .u24 => (w.extractLsb' 0 24).setWidth 32
  | .fb => (w.extractLsb' 0 16).signExtend 32
  | .bit0 => (w.extractLsb' 0 1).setWidth 32
  | .bit4 => (w.extractLsb' 0 1).setWidth 32

/-- A byte that may travel on MIDI as data (41_bitpacker.md R118). -/
abbrev midiSafe (b : Byte) : Prop := b.toNat ≤ 0x7F

/-- A packed body that unpack and pack reproduce (41_bitpacker.md R117): every byte at most 0x7F, no lone mask, at least
two bytes, and in a short last group no mask bit of an absent position. -/
abbrev CanonicalBody (p : List Byte) : Prop :=
  (∀ b ∈ p, midiSafe b) ∧ p.length % 8 ≠ 1 ∧ 2 ≤ p.length ∧
  (p.length % 8 ≠ 0 → ∀ j, j < 7 - (p.length % 8 - 1) → (p.getD (p.length / 8 * 8) 0).getLsbD j = false)

end Sys2Proof.Machine
end

