-- ==== Sys2Proof/Certificates/Slice0/Obligations.lean ====
section
/-! DEFINITION. The statements for the provers. Each docstring names the rules of spec/ it comes from. -/

open Sys2Proof Sys2Proof.Machine

/-- 30_encoding.md R80, R83, R86: the decoder gives a command exactly for that command's word of formats C0 and C1. -/
def Obligations.DecodeAcceptsExactlyTheEncodings : Prop :=
  ∀ (w : Word) (i : Instr), decodeCommand w = .ok i ↔ w = encodeCommand i

/-- 30_encoding.md R84, 60_exceptions.md R242: which words are illegal; an illegal word is accepted like any other and
completes with ILLEGAL_COMMAND, changing nothing but STATUS. -/
def Obligations.IllegalWordsAreAcceptedAndFail : Prop :=
  (∀ w : Word, (∃ e, decodeCommand w = .error e) ↔ illegalWord w) ∧
  (∀ (s : State) (w : Word), illegalWord w → s.status.busy = false →
    (s.hostWrite .w32 0x0000 w).pend = w ∧
    (s.hostWrite .w32 0x0000 w).status = { busy := true, done := false, err := false, ovr := false, ecode := 0 }) ∧
  (∀ s : State, s.status.busy = true → s.wait = 0 → illegalWord s.pend →
    step s = .next { s with status := errorStatus s.status 0x01 })

/-- 30_encoding.md R83, R86 and the command words of 95_test_vectors.md section 8. -/
def Obligations.SpecCommandWordsDecode : Prop :=
  decodeCommand 0x00000001 = .ok .unpack78 ∧ decodeCommand 0x00000002 = .ok .pack87 ∧
  decodeCommand 0x00000003 = .ok .crc32 ∧ decodeCommand 0x00000005 = .ok .toUnsigned ∧
  decodeCommand 0x00000006 = .ok .decode ∧ decodeCommand 0x00000108 = .ok (.frame 0x01) ∧
  decodeCommand 0x0000FF08 = .ok (.frame 0xFF) ∧ decodeCommand 0x0000000A = .ok .decodeInbound

/-- 10_state.md R23, 60_exceptions.md R248: a CMD write is accepted when BUSY = 0 and dropped with OVR = 1 when BUSY = 1;
a read of CMD gives 0. That the write is the next event of the list `host` is the model's form (log entries 1, 26). -/
def Obligations.CommandWriteIsAcceptedOrDropped : Prop :=
  (∀ (s : State) (w : Word) (rest : List BusOp), s.host = .write .w32 0x0000 w :: rest →
    (s.status.busy = false →
      ∃ t, step s = .next t ∧
        t = { s with
              pend := w
              status := { busy := true, done := false, err := false, ovr := false, ecode := 0 }
              host := rest, resp := some .ack, wait := t.wait, draws := t.draws, hazard := false }) ∧
    (s.status.busy = true → s.wait ≠ 0 →
      step s = .next { s with
        status := { s.status with ovr := true }, host := rest, resp := some .ack, wait := s.wait - 1 })) ∧
  (∀ s : State, s.busRead .w32 0x0000 = .data 0)

/-- 60_exceptions.md R248: a CMD write while BUSY = 1 sets OVR and changes neither PEND nor the running operation nor a
result; OVR stays 1 until the next accepted command, or reset. -/
def Obligations.OverrunIsRecordedUntilTheNextAcceptance : Prop :=
  (∀ (s : State) (w : Word), s.status.busy = true →
    s.hostWrite .w32 0x0000 w = { s with status := { s.status with ovr := true }, resp := some .ack }) ∧
  (∀ s t : State, step s = .next t → s.status.ovr = true →
    t.status.ovr = true ∨
    (s.status.busy = false ∧ t.status = { busy := true, done := false, err := false, ovr := false, ecode := 0 }) ∨
    (s.host.head? = some .reset ∧ t.status = { busy := false, done := false, err := false, ovr := false, ecode := 0 }))

/-- 10_state.md R40: when the latency is over, the step of the block is the meaning of the command that PEND decodes to. -/
def Obligations.StepRunsTheDecodedCommand : Prop :=
  ∀ (s : State) (i : Instr), s.status.busy = true → s.wait = 0 → s.hazard = false → decodeCommand s.pend = .ok i →
    step s = exec i s

/-- 10_state.md R42: a host write to an operand of the pending command while BUSY = 1 is performed and recorded as the
operand hazard; a write to a place that the pending command does not read is performed and not recorded, and an illegal
pending word has no operand. Log entry 7 (DEDUCED) is the model's reading, not R42's words, on two points: every byte of
IBUF counts as an operand, also one beyond IN_LEN; and the registers of R42's list that the pending command does not read
do not count, although 70_reset_and_hazards.md R276 read literally names them all. -/
def Obligations.OperandWriteWhileBusyIsPerformed : Prop :=
  (∀ (s : State) (i : Instr) (d : Word), s.status.busy = true → decodeCommand s.pend = .ok i →
    (readsIbuf i = true →
      s.hostWrite .w32 0x0008 d = { s with inLen := d.extractLsb' 0 16, resp := some .ack, hazard := true } ∧
      (∀ k, k < s.inCap →
        (s.hostWrite .w8 (BitVec.ofNat 16 (0x1000 + k)) d).hazard = true ∧
        (s.hostWrite .w8 (BitVec.ofNat 16 (0x1000 + k)) d).mem.read (0x1000 + k) = some (d.extractLsb' 0 8)) ∧
      ∀ k, 4 * k + 4 ≤ s.inCap → (s.hostWrite .w32 (BitVec.ofNat 16 (0x1000 + 4 * k)) d).hazard = true) ∧
    (readsIbuf i = false →
      s.hostWrite .w32 0x0008 d = { s with inLen := d.extractLsb' 0 16, resp := some .ack } ∧
      (∀ k, k < s.inCap → ∃ t, s.hostWrite .w8 (BitVec.ofNat 16 (0x1000 + k)) d = t ∧
        t = { s with mem := t.mem, resp := some .ack } ∧ t.mem.read (0x1000 + k) = some (d.extractLsb' 0 8)) ∧
      ∀ k, 4 * k + 4 ≤ s.inCap → ∃ t, s.hostWrite .w32 (BitVec.ofNat 16 (0x1000 + 4 * k)) d = t ∧
        t = { s with mem := t.mem, resp := some .ack } ∧
        ∀ j, j < 4 → t.mem.read (0x1000 + 4 * k + j) = some (d.extractLsb' (8 * j) 8)) ∧
    (i = .toSigned ∨ i = .toUnsigned →
      s.hostWrite .w32 0x0020 d = { s with convIn := d, resp := some .ack, hazard := true }) ∧
    (i ≠ .toSigned → i ≠ .toUnsigned →
      s.hostWrite .w32 0x0020 d = { s with convIn := d, resp := some .ack }) ∧
    (i = .encodePayload ∨ i = .encodeBurst → ∀ j : Fin 121,
      (s.hostWrite .w32 (BitVec.ofNat 16 (0x100 + 4 * j.val)) d).hazard = true ∧
      (s.hostWrite .w32 (BitVec.ofNat 16 (0x100 + 4 * j.val)) d).readField j = fieldReadback (kindAt j) d) ∧
    (i ≠ .encodePayload → i ≠ .encodeBurst → ∀ j : Fin 121,
      ∃ t, s.hostWrite .w32 (BitVec.ofNat 16 (0x100 + 4 * j.val)) d = t ∧
        t = { s with f := t.f, resp := some .ack } ∧ t.readField j = fieldReadback (kindAt j) d) ∧
    (i = .encodeBurst →
      s.hostWrite .w32 0x0040 d = { s with nameLen := d.extractLsb' 0 4, resp := some .ack, hazard := true } ∧
      (s.hostWrite .w32 0x0044 d).hazard = true ∧ (s.hostWrite .w32 0x0044 d).nameW0 = d ∧
      (s.hostWrite .w32 0x0048 d).hazard = true ∧ (s.hostWrite .w32 0x0048 d).nameW1 = d) ∧
    (i ≠ .encodeBurst →
      s.hostWrite .w32 0x0040 d = { s with nameLen := d.extractLsb' 0 4, resp := some .ack } ∧
      (∃ t, s.hostWrite .w32 0x0044 d = t ∧ t = { s with name := t.name, resp := some .ack } ∧ t.nameW0 = d) ∧
      (∃ t, s.hostWrite .w32 0x0048 d = t ∧ t = { s with name := t.name, resp := some .ack } ∧ t.nameW1 = d))) ∧
  (∀ (s : State) (e : IllegalWord), s.status.busy = true → decodeCommand s.pend = .error e →
    ∀ w a d, (s.hostWrite w a d).hazard = s.hazard)

/-- 10_state.md R42: under the operand hazard the engine's step completes the command and leaves only its result
locations, ERR and ECODE open. The model's choices (log entries 6, 8, 9): a fault stays a fault, and an OBUF result may
reach to OUT_CAP. -/
def Obligations.HazardLeavesOnlyResultsOpen : Prop :=
  ∀ (s : State) (i : Instr), s.status.busy = true → s.wait = 0 → s.hazard = true → decodeCommand s.pend = .ok i →
    (∀ r, exec i s = .fault r → step s = .fault r) ∧
    (∀ u, exec i s = .next u →
      ∃ t, step s = .next t ∧
        t = { s.withResults i t with
              status := { s.status with busy := false, done := true, err := t.status.err, ecode := t.status.ecode }
              hazard := false, draws := t.draws } ∧
        SameOutsideObuf s t s.outCap)

/-- 70_reset_and_hazards.md R275 to R277, R281: a host event that respects the hazards while a command is pending changes
neither an operand nor a result nor STATUS and records no hazard, and a read of it returns the current value. -/
def Obligations.RespectfulHostLeavesThePendingCommandAlone : Prop :=
  ∀ (s : State) (op : BusOp), s.status.busy = true → respectsHazards s op = true → op ≠ .reset →
    (∃ t, s.hostEvent op = t ∧ t = { s with host := t.host, resp := t.resp, draws := t.draws }) ∧
    ∀ w a, op = .read w a →
      (s.hostEvent op).resp =
        some (match busTarget s.par.1 w a with | none => .busError | some g => .data (s.readTarget w g))

/-- 10_state.md R22, R41: STATUS, IN_LEN, CONV_IN, HDR_LO, HDR_HI, written IBUF bytes and CRCROM read as their current
values, whether or not a command is pending; every other register, and every written OBUF byte, reads as its current value
at its own address, zero-extended, unless the pending command writes it. Bits [31:8] of the response to an 8-bit read are 0
by the model's choice (log entry 30). -/
def Obligations.NonResultReadsAreCurrent : Prop :=
  ∀ s : State,
    s.busRead .w32 0x0004 = .data s.status.word ∧
    s.busRead .w32 0x0008 = .data (s.inLen.setWidth 32) ∧
    s.busRead .w32 0x0020 = .data s.convIn ∧
    s.busRead .w32 0x0028 = .data s.hdrLo ∧
    s.busRead .w32 0x002C = .data s.hdrHi ∧
    (∀ k b, k < s.inCap → s.mem.read (0x1000 + k) = some b →
      s.busRead .w8 (BitVec.ofNat 16 (0x1000 + k)) = .data (b.setWidth 32)) ∧
    (∀ k : Byte, s.busRead .w32 (BitVec.ofNat 16 (0x3000 + 4 * k.toNat)) = .data (crcRom k)) ∧
    (NotBeingWritten s .outLen →
      s.busRead .w32 0x000C = .data (s.outLen.setWidth 32) ∧
      ∀ k b, k < s.outCap → s.mem.read (0x2000 + k) = some b →
        s.busRead .w8 (BitVec.ofNat 16 (0x2000 + k)) = .data (b.setWidth 32)) ∧
    (NotBeingWritten s .msgLen0 → s.busRead .w32 0x0010 = .data (s.msgLen0.setWidth 32)) ∧
    (NotBeingWritten s .msgLen1 → s.busRead .w32 0x0014 = .data (s.msgLen1.setWidth 32)) ∧
    (NotBeingWritten s .msgLen2 → s.busRead .w32 0x0018 = .data (s.msgLen2.setWidth 32)) ∧
    (NotBeingWritten s .crc → s.busRead .w32 0x001C = .data s.crc) ∧
    (NotBeingWritten s .convOut → s.busRead .w32 0x0024 = .data s.convOut) ∧
    (NotBeingWritten s .nameLen → s.busRead .w32 0x0040 = .data (s.nameLen.setWidth 32)) ∧
    (NotBeingWritten s .nameW0 → s.busRead .w32 0x0044 = .data s.nameW0) ∧
    (NotBeingWritten s .nameW1 → s.busRead .w32 0x0048 = .data s.nameW1) ∧
    (∀ j : Fin 121, NotBeingWritten s (.field j) →
      s.busRead .w32 (BitVec.ofNat 16 (0x100 + 4 * j.val)) = .data (s.readField j))

/-- 10_state.md R27: the bits of the STATUS register as the host reads it. -/
def Obligations.StatusRegisterHasItsBits : Prop :=
  ∀ s : State, ∃ w, s.busRead .w32 0x0004 = .data w ∧
    w.getLsbD 0 = s.status.busy ∧ w.getLsbD 1 = s.status.done ∧ w.getLsbD 2 = s.status.err ∧
    w.getLsbD 3 = s.status.ovr ∧ w.extractLsb' 8 8 = s.status.ecode ∧
    w.extractLsb' 4 4 = 0#4 ∧ w.extractLsb' 16 16 = 0#16

/-- From every state that meets the invariant of Safety.lean a step gives a state that meets it: memory stays in its
canonical form and inside the buffers, fields stay within their widths, STATUS stays consistent
(10_state.md R24, R28; 20_memory.md R61, R66). -/
def Obligations.StepKeepsInvariant : Prop :=
  ∀ s t : State, Inv s → step s = .next t → Inv t

/-- The invariant holds after reset. -/
def Obligations.ResetMeetsInvariant : Prop := Inv State.reset

/-- 10_state.md R28: BUSY = 1 implies DONE = 0, ERR = 0 and ECODE = 0, and ERR = 0 implies ECODE = 0: at reset, and kept
by every step. -/
def Obligations.StatusStaysConsistent : Prop :=
  StatusConsistent State.reset.status ∧
  ∀ s t : State, StatusConsistent s.status → step s = .next t → StatusConsistent t.status

/-- 10_state.md R33: HDR_LO and HDR_HI expose DEVICE_HEADER little-endian, and no step changes the parameters. -/
def Obligations.HeaderRegistersAreConstants : Prop :=
  (∀ (s : State) (k : Fin 4),
    s.hdrLo.extractLsb' (8 * k.val) 8 = s.par.1.header.get ⟨k.val, by omega⟩ ∧
    s.hdrHi.extractLsb' (8 * k.val) 8 = s.par.1.header.get ⟨4 + k.val, by omega⟩ ∧
    s.busRead .w32 0x0028 = .data s.hdrLo ∧ s.busRead .w32 0x002C = .data s.hdrHi) ∧
  (∀ s t : State, step s = .next t → t.par = s.par)

/-- 10_state.md R43: the reset values. -/
def Obligations.ResetGivesTheStatedValues : Prop :=
  State.reset.status.word = 0 ∧ State.reset.inLen = 0 ∧ State.reset.outLen = 0 ∧
  State.reset.msgLen0 = 0 ∧ State.reset.msgLen1 = 0 ∧ State.reset.msgLen2 = 0 ∧
  State.reset.crc = 0 ∧ State.reset.convIn = 0 ∧ State.reset.convOut = 0 ∧ State.reset.nameLen = 0 ∧
  (∀ k, State.reset.name.get k = 0) ∧ (∀ i, State.reset.f.get i = 0) ∧
  (∀ a, State.reset.mem.read a = none) ∧
  (∀ k : Byte, State.reset.busRead .w32 (BitVec.ofNat 16 (0x3000 + 4 * k.toNat)) = .data (crcRom k)) ∧
  State.reset.busRead .w32 0x0028 = .data State.reset.hdrLo ∧ State.reset.busRead .w32 0x002C = .data State.reset.hdrHi

/-- 70_reset_and_hazards.md R271, R273: the reset input, also while a command is pending, gives the reset state; the
constants of the instance, the rest of the host's stream and the draw counter stay (log entry 19). -/
def Obligations.ResetInputAbandonsThePendingCommand : Prop :=
  ∀ (s : State) (rest : List BusOp), s.host = .reset :: rest → ¬ (s.status.busy = true ∧ s.wait = 0) →
    step s = .next { State.reset with par := s.par, host := rest, draws := s.draws }

/-- 10_state.md R40, 70_reset_and_hazards.md R281: an accepted command reaches its engine step after exactly the bus
cycles of its latency, unless the platform asserts reset. -/
def Obligations.PendingCommandReachesItsStep : Prop :=
  ∀ s : State, s.status.busy = true → .reset ∉ s.host →
    ∃ t : State, Sys2Proof.core.run s.wait s = .next t ∧ t.status.busy = true ∧ t.wait = 0 ∧ t.pend = s.pend

/-- 20_memory.md R71, 30_encoding.md R88, R89: a host that issues a command and polls finds, when its poll ends, exactly
the state the command's meaning gives, whatever the latency. The host's stream as the list `host`, the latency counted in
steps and the engine's turn before the host's are the model's form (log entries 1, 2, 26). -/
def Obligations.PolledCommandDeliversItsResult : Prop :=
  ∀ (s u : State) (i : Instr), s.status.busy = false → s.host = (Stmt.run i).ops →
    exec i { s with
      pend := encodeCommand i
      status := { busy := true, done := false, err := false, ovr := false, ecode := 0 }
      host := [], hazard := false } = .next u →
    ∃ (n : Nat) (t : State), Sys2Proof.core.run n s = .next t ∧
      t = { u with resp := some (.data u.status.word), wait := 0, draws := t.draws }

/-- 10_state.md R24: a host write to F[i] stores the low W bits; the read is sign- or zero-extended by the kind; other
fields keep their value. An engine write of an integer v stores the same way: whatever value `fieldCell`, the one storing
operation, puts into F[i], by itself or in a decoded patch that `setPatch` writes, reads back as a host write of v does, and
every field of a decoded patch is stored by it. -/
def Obligations.FieldRegistersReadBack : Prop :=
  (∀ (s : State) (i : Fin 121) (w : Word), s.status.busy = false →
    (s.hostWrite .w32 (BitVec.ofNat 16 (0x100 + 4 * i.val)) w).busRead .w32 (BitVec.ofNat 16 (0x100 + 4 * i.val)) =
      .data (fieldReadback (kindAt i) w) ∧
    ∀ j : Fin 121, j ≠ i →
      (s.hostWrite .w32 (BitVec.ofNat 16 (0x100 + 4 * i.val)) w).busRead .w32 (BitVec.ofNat 16 (0x100 + 4 * j.val)) =
        s.busRead .w32 (BitVec.ofNat 16 (0x100 + 4 * j.val))) ∧
  (∀ (s : State) (i : Fin 121) (v : Int),
    (s.writeField i v).readField i = fieldReadback (kindAt i) (BitVec.ofInt 32 v)) ∧
  (∀ (s : State) (p : DecodedPatch) (i : Fin 121) (v : Int), p.fields.get i = fieldCell i v →
    (s.setPatch p).readField i = fieldReadback (kindAt i) (BitVec.ofInt 32 v)) ∧
  (∀ (L : Layout) (u : List Byte) (p : DecodedPatch) (s : State) (i : Fin 121), decodePatch L u = .ok p →
    (s.setPatch p).readField i =
      fieldReadback (kindAt i) (BitVec.ofInt 32 (decodeField L ((u.drop (payloadStart u)).take 0x88) i)))

/-- 10_state.md R22, R26: NAME_LEN keeps 4 bits and NAME_W0 and NAME_W1 hold the characters little-endian. -/
def Obligations.NameRegistersPackLittleEndian : Prop :=
  ∀ (s : State) (w : Word), s.status.busy = false →
    (s.hostWrite .w32 0x0040 w).busRead .w32 0x0040 = .data ((w.extractLsb' 0 4).setWidth 32) ∧
    (s.hostWrite .w32 0x0044 w).busRead .w32 0x0044 = .data w ∧
    (s.hostWrite .w32 0x0048 w).busRead .w32 0x0048 = .data w ∧
    (∀ k : Fin 4,
      (s.hostWrite .w32 0x0044 w).name.get ⟨k.val, by omega⟩ = w.extractLsb' (8 * k.val) 8 ∧
      (s.hostWrite .w32 0x0044 w).name.get ⟨4 + k.val, by omega⟩ = s.name.get ⟨4 + k.val, by omega⟩ ∧
      (s.hostWrite .w32 0x0048 w).name.get ⟨4 + k.val, by omega⟩ = w.extractLsb' (8 * k.val) 8 ∧
      (s.hostWrite .w32 0x0048 w).name.get ⟨k.val, by omega⟩ = s.name.get ⟨k.val, by omega⟩)

/-- 20_memory.md R64, R65: exactly the accesses of the map's widths and alignments get no bus error, and a bus error
changes no state of the block. That an allowed write to a read-only register, OBUF or CRCROM is acknowledged is the
model's reading (log entry 24, DEDUCED). -/
def Obligations.BusErrorsChangeNothing : Prop :=
  ∀ (s : State) (w : Width) (a : Half) (d : Word),
    (accessAllowed s.par.1 w a.toNat →
      (∃ v, (s.hostRead w a).resp = some (.data v)) ∧ (s.hostWrite w a d).resp = some .ack) ∧
    (¬ accessAllowed s.par.1 w a.toNat →
      s.hostRead w a = { s with resp := some .busError, draws := s.draws + 1 } ∧
      s.hostWrite w a d = { s with resp := some .busError })

/-- 20_memory.md R68: reads have no side effect; only a write to CMD has one beyond storing its data; writes to read-only
registers, OBUF and CRCROM are ignored; a buffer write changes only the bytes it addresses. -/
def Obligations.HostAccessesChangeOnlyTheirTarget : Prop :=
  ∀ (s : State) (w : Width) (a : Half) (d : Word),
    (∃ r, s.hostRead w a = { s with resp := some r, draws := s.draws + 1 }) ∧
    (a ≠ 0x0000 → ∃ t, s.hostWrite w a d = t ∧
      t = { s with
            inLen := t.inLen, convIn := t.convIn, nameLen := t.nameLen, name := t.name, f := t.f, mem := t.mem
            resp := t.resp, hazard := t.hazard } ∧
      (a ≠ 0x0008 → t.inLen = s.inLen) ∧ (a ≠ 0x0020 → t.convIn = s.convIn) ∧ (a ≠ 0x0040 → t.nameLen = s.nameLen) ∧
      (a ≠ 0x0044 → a ≠ 0x0048 → t.name = s.name) ∧
      (∀ i : Fin 121, a.toNat ≠ 0x100 + 4 * i.val → t.f.get i = s.f.get i) ∧
      (∀ b, b < a.toNat ∨ a.toNat + (if w = .w8 then 1 else 4) ≤ b → t.mem.read b = s.mem.read b) ∧
      (a.toNat < 0x1000 ∨ 0x2000 ≤ a.toNat → t.mem = s.mem))

/-- 20_memory.md R63: a 32-bit access to IBUF or OBUF at offset 4k transfers byte 4k in bits [7:0] up to byte 4k+3 in bits
[31:24], an 8-bit access one byte in bits [7:0], at every offset of the buffer; a write changes no other byte. Bits [31:8]
of the response to an 8-bit read are 0 by the model's choice (log entry 30). -/
def Obligations.BufferWordsAreLittleEndian : Prop :=
  (∀ (s : State) (k : Nat) (d : Word), 4 * k + 4 ≤ s.inCap →
    ∃ t, s.hostWrite .w32 (BitVec.ofNat 16 (0x1000 + 4 * k)) d = t ∧
      (∀ j, j < 4 →
        t.mem.read (0x1000 + 4 * k + j) = some (d.extractLsb' (8 * j) 8) ∧
        t.busRead .w8 (BitVec.ofNat 16 (0x1000 + 4 * k + j)) = .data ((d.extractLsb' (8 * j) 8).setWidth 32)) ∧
      t.busRead .w32 (BitVec.ofNat 16 (0x1000 + 4 * k)) = .data d ∧
      (∀ a, a < 0x1000 + 4 * k ∨ 0x1000 + 4 * k + 4 ≤ a → t.mem.read a = s.mem.read a)) ∧
  (∀ (s : State) (k : Nat) (d : Word), k < s.inCap →
    ∃ t, s.hostWrite .w8 (BitVec.ofNat 16 (0x1000 + k)) d = t ∧
      t.mem.read (0x1000 + k) = some (d.extractLsb' 0 8) ∧
      (∀ a, a ≠ 0x1000 + k → t.mem.read a = s.mem.read a)) ∧
  (∀ (s : State) (k : Nat) (b0 b1 b2 b3 : Byte), s.status.busy = false → 4 * k + 4 ≤ s.outCap →
    s.mem.read (0x2000 + 4 * k) = some b0 → s.mem.read (0x2000 + 4 * k + 1) = some b1 →
    s.mem.read (0x2000 + 4 * k + 2) = some b2 → s.mem.read (0x2000 + 4 * k + 3) = some b3 →
    s.busRead .w32 (BitVec.ofNat 16 (0x2000 + 4 * k)) = .data (b3 ++ b2 ++ b1 ++ b0)) ∧
  (∀ (s : State) (k : Nat) (b : Byte), s.status.busy = false → k < s.outCap → s.mem.read (0x2000 + k) = some b →
    s.busRead .w8 (BitVec.ofNat 16 (0x2000 + k)) = .data (b.setWidth 32)) ∧
  (∀ (s : State) (k : Nat) (b : Byte), k < s.inCap → s.mem.read (0x1000 + k) = some b →
    s.busRead .w8 (BitVec.ofNat 16 (0x1000 + k)) = .data (b.setWidth 32))

/-- 42_checksum.md R131: CRCROM as the host reads it, by the rule's construction on numbers, and its selected entries. -/
def Obligations.CrcRomHoldsTheTable : Prop :=
  (∀ (s : State) (k : Nat), k < 256 →
    (fun c : Nat => if c % 2 = 1 then 0xEDB88320 ^^^ (c / 2) else c / 2)^[8] k < 2 ^ 32 ∧
    s.busRead .w32 (BitVec.ofNat 16 (0x3000 + 4 * k)) =
      .data (BitVec.ofNat 32 ((fun c : Nat => if c % 2 = 1 then 0xEDB88320 ^^^ (c / 2) else c / 2)^[8] k))) ∧
  crcRom 0 = 0x00000000 ∧ crcRom 1 = 0x77073096 ∧ crcRom 2 = 0xEE0E612C ∧ crcRom 8 = 0x0EDB8832 ∧
  crcRom 16 = 0x1DB71064 ∧ crcRom 128 = 0xEDB88320 ∧ crcRom 255 = 0x2D02EF8D

/-- 42_checksum.md R136: the table-driven fold equals the bit-serial form. -/
def Obligations.CrcFoldIsBitSerial : Prop :=
  ∀ xs : List Byte, crc32 xs = crcBitSerial xs

/-- 42_checksum.md R135: the source's two check values. -/
def Obligations.CrcCheckValues : Prop :=
  crc32 [] = 0 ∧ crc32 [0x31, 0x32, 0x33, 0x34, 0x35, 0x36, 0x37, 0x38, 0x39] = 0xCBF43926

/-- 42_checksum.md R134: CRC32 completes on every written input in range, writes CRC with the checksum of the whole input
(in the bit-serial form of R136) and changes nothing else but STATUS; IN_LEN > IN_CAP raises LENGTH_RANGE. -/
def Obligations.Crc32WritesTheChecksum : Prop :=
  (∀ (s : State) (b : List Byte), HasInput s b →
    exec .crc32 s = .next { s with crc := crcBitSerial b, status := successStatus s.status }) ∧
  (∀ s : State, s.inCap < s.inLen.toNat → exec .crc32 s = .next { s with status := errorStatus s.status 0x05 })

/-- 20_memory.md R70: a command ends in the fault of the run exactly when it reads IBUF, IN_LEN is in range and a byte of
IBUF[0..IN_LEN) is unwritten; no command is refused. -/
def Obligations.UnwrittenInputIsTheOnlyFault : Prop :=
  ∀ (i : Instr) (s : State),
    (exec i s = .fault .unwrittenInput ↔
      readsIbuf i = true ∧ s.inLen.toNat ≤ s.inCap ∧ ∃ k, k < s.inLen.toNat ∧ s.mem.read (0x1000 + k) = none) ∧
    ∀ r, exec i s ≠ .refused r

/-- 10_state.md R29, 60_exceptions.md R246, R260: IN_LEN > IN_CAP makes every command that reads IBUF raise LENGTH_RANGE
before anything else, and no other command raises it. -/
def Obligations.LengthRangeIsRaisedFirst : Prop :=
  ∀ (i : Instr) (s : State),
    (readsIbuf i = true → s.inCap < s.inLen.toNat → exec i s = .next { s with status := errorStatus s.status 0x05 }) ∧
    (∀ t, s.status.ecode ≠ 0x05 → exec i s = .next t → t.status.ecode = 0x05 →
      readsIbuf i = true ∧ s.inCap < s.inLen.toNat)

/-- 60_exceptions.md R245: a command that raises an error writes BUSY, DONE, ERR and ECODE and no other state. -/
def Obligations.ErrorsWriteOnlyStatus : Prop :=
  ∀ (i : Instr) (s t : State), exec i s = .next t → s.status.err = false → t.status.err = true →
    ∃ e : ErrorCode, e ≠ .illegalCommand ∧ e ≠ .unrecognizedFormat ∧
      t = { s with status := errorStatus s.status e.code }

/-- 10_state.md R22 (column "written by engine") and 20_memory.md R69: what each command leaves unchanged when it answers
a next state. -/
def Obligations.CommandsWriteOnlyTheirResults : Prop :=
  ∀ (i : Instr) (s t : State), exec i s = .next t →
    t = { s.withResults i t with
          status := { s.status with busy := false, done := true, err := t.status.err, ecode := t.status.ecode } } ∧
    SameOutsideObuf s t t.outLen.toNat ∧
    (writesObuf i = true → s.status.err = false → t.status.err = false →
      ∀ k, k < t.outLen.toNat → t.mem.read (obufBase + k) ≠ none)

/-- 20_memory.md R69, first sentence: an operation reads only IBUF[0..IN_LEN). Two states that differ only in other bytes
of memory give the same outcome and the same result bytes. -/
def Obligations.BytesBeyondTheInputDoNotMatter : Prop :=
  ∀ (i : Instr) (s : State) (m : Memory),
    (∀ k, k < s.inLen.toNat → Memory.read m (ibufBase + k) = s.mem.read (ibufBase + k)) →
    (∀ r, exec i s = .fault r → exec i { s with mem := m } = .fault r) ∧
    (∀ t, exec i s = .next t →
      ∃ u, exec i { s with mem := m } = .next u ∧ u = { t with mem := u.mem } ∧
        (writesObuf i = true → s.status.err = false → t.status.err = false →
          ∀ k, k < t.outLen.toNat → u.mem.read (obufBase + k) = t.mem.read (obufBase + k)))

/-- 60_exceptions.md R244: MALFORMED_BUFFER is raised exactly in its seven cases. -/
def Obligations.MalformedBufferExactlyInItsCases : Prop :=
  ∀ (i : Instr) (s t : State) (b : List Byte), s.status.ecode = 0 → (readsIbuf i = true → HasInput s b) →
    exec i s = .next t →
    (t.status.ecode = 0x02 ↔
      (i = .unpack78 ∧ unpackMalformed b) ∨ (i = .pack87 ∧ b.length < 9) ∨ (i = .decode ∧ decodeMalformed b) ∨
      (i = .decodeInbound ∧ (b.length ≤ 20 ∨ unpackMalformed b ∨
        ∃ d u, IsBodyOf b d ∧ IsUnpacked d u ∧ decodeMalformed u)))

/-- 41_bitpacker.md R102 to R109: UNPACK78 of a message with a body that is not empty and has no lone mask writes the
unpacked bytes and OUT_LEN; every other message raises MALFORMED_BUFFER, a result longer than OUT_CAP BUFFER_OVERFLOW,
IN_LEN > IN_CAP LENGTH_RANGE; nothing else changes. -/
def Obligations.Unpack78WritesTheUnpackedBytes : Prop :=
  (∀ (s : State) (b d : List Byte), HasInput s b → IsBodyOf b d → d ≠ [] → d.length % 8 ≠ 1 →
    (d.length - (d.length + 7) / 8 ≤ s.outCap →
      ∃ r t, IsUnpacked d r ∧ exec .unpack78 s = .next t ∧
        t = { s with mem := t.mem, outLen := BitVec.ofNat 16 r.length, status := successStatus s.status } ∧
        ObufHolds t 0 r ∧ SameOutsideObuf s t r.length) ∧
    (s.outCap < d.length - (d.length + 7) / 8 →
      exec .unpack78 s = .next { s with status := errorStatus s.status 0x03 })) ∧
  (∀ (s : State) (b : List Byte), HasInput s b → unpackMalformed b →
    exec .unpack78 s = .next { s with status := errorStatus s.status 0x02 }) ∧
  (∀ s : State, s.inCap < s.inLen.toNat → exec .unpack78 s = .next { s with status := errorStatus s.status 0x05 })

/-- 41_bitpacker.md R110 to R115: PACK87 of at least nine bytes writes the packed message and OUT_LEN; fewer raise
MALFORMED_BUFFER, a result longer than OUT_CAP BUFFER_OVERFLOW, IN_LEN > IN_CAP LENGTH_RANGE; nothing else changes. -/
def Obligations.Pack87WritesThePackedMessage : Prop :=
  (∀ (s : State) (b : List Byte), HasInput s b → 9 ≤ b.length →
    (9 + (b.length - 9) + (b.length - 9 + 6) / 7 ≤ s.outCap →
      ∃ q t, IsPacked (b.take 9) (b.drop 9) q ∧ exec .pack87 s = .next t ∧
        t = { s with mem := t.mem, outLen := BitVec.ofNat 16 q.length, status := successStatus s.status } ∧
        ObufHolds t 0 q ∧ SameOutsideObuf s t q.length) ∧
    (s.outCap < 9 + (b.length - 9) + (b.length - 9 + 6) / 7 →
      exec .pack87 s = .next { s with status := errorStatus s.status 0x03 })) ∧
  (∀ (s : State) (b : List Byte), HasInput s b → b.length < 9 →
    exec .pack87 s = .next { s with status := errorStatus s.status 0x02 }) ∧
  (∀ s : State, s.inCap < s.inLen.toNat → exec .pack87 s = .next { s with status := errorStatus s.status 0x05 })

/-- 45_framer.md R201, R202: FRAME writes the packed message of DEVICE_HEADER, SEQ and the body, with 0xF7 appended, for
every SEQ; a frame longer than OUT_CAP raises BUFFER_OVERFLOW, IN_LEN > IN_CAP LENGTH_RANGE; nothing else changes. -/
def Obligations.FrameWritesTheFramedMessage : Prop :=
  (∀ (s : State) (seq : Byte) (b : List Byte), HasInput s b →
    (10 + b.length + (b.length + 6) / 7 ≤ s.outCap →
      ∃ q t, IsPacked (s.header ++ [seq]) b q ∧ exec (.frame seq) s = .next t ∧
        t = { s with mem := t.mem, outLen := BitVec.ofNat 16 (q.length + 1), status := successStatus s.status } ∧
        ObufHolds t 0 (q ++ [0xF7]) ∧ SameOutsideObuf s t (q.length + 1)) ∧
    (s.outCap < 10 + b.length + (b.length + 6) / 7 →
      exec (.frame seq) s = .next { s with status := errorStatus s.status 0x03 })) ∧
  (∀ (s : State) (seq : Byte), s.inCap < s.inLen.toNat →
    exec (.frame seq) s = .next { s with status := errorStatus s.status 0x05 })

/-- 41_bitpacker.md R116: pack then unpack is the identity on every non-empty body, with and without a terminator; an
empty body fails. -/
def Obligations.PackThenUnpackIsIdentity : Prop :=
  ∀ h d : List Byte, h.length = 9 →
    ∃ q, pack87 (h ++ d) = .ok q ∧
      (d ≠ [] → unpack78 q = .ok d ∧ unpack78 (q ++ [0xF7]) = .ok d) ∧
      (d = [] → unpack78 q = .error .malformedBuffer)

/-- 41_bitpacker.md R117, first part: unpack then pack reproduces a message whose body is canonical. -/
def Obligations.UnpackThenPackIsIdentityOnCanonicalBodies : Prop :=
  ∀ h p : List Byte, h.length = 9 → CanonicalBody p →
    ∃ r, unpack78 (h ++ p) = .ok r ∧ unpack78 (h ++ p ++ [0xF7]) = .ok r ∧ pack87 (h ++ r) = .ok (h ++ p)

/-- 41_bitpacker.md R118: every byte of a packed message from index 9 on is at most 0x7F; the prefix passes through. -/
def Obligations.PackedBodyIsMidiSafe : Prop :=
  ∀ b q : List Byte, pack87 b = .ok q →
    (∀ k (h : k < q.length), 9 ≤ k → q[k].toNat ≤ 0x7F) ∧ q.take 9 = b.take 9

/-- 43_signed_byte.md R152: TOSIGNED sign-extends CONV_IN[7:0] into CONV_OUT and changes nothing else but STATUS. -/
def Obligations.ToSignedSignExtendsTheLowByte : Prop :=
  ∀ s : State,
    exec .toSigned s =
      .next { s with convOut := (s.convIn.extractLsb' 0 8).signExtend 32, status := successStatus s.status }

/-- 43_signed_byte.md R154: TOUNSIGNED keeps the low byte of CONV_IN, zero-extended, and changes nothing else but STATUS. -/
def Obligations.ToUnsignedKeepsTheLowByte : Prop :=
  ∀ s : State,
    exec .toUnsigned s = .next { s with convOut := s.convIn &&& 0x000000FF, status := successStatus s.status }

/-- 43_signed_byte.md R155: the converter's laws and the source's vectors. -/
def Obligations.ConverterLawsHold : Prop :=
  (∀ b : Byte, toUnsignedByte (toSigned b) = b) ∧
  (∀ v : Int, -128 ≤ v → v ≤ 127 → toSigned (toUnsignedByte v) = v) ∧
  (∀ v : Int, 128 ≤ v → v ≤ 255 → toSigned (toUnsignedByte v) = v - 256) ∧
  toSigned 0 = 0 ∧ toSigned 127 = 127 ∧ toSigned 128 = -128 ∧ toSigned 255 = -1

/-- 44_patch_codec.md R163 to R170: DECODE of a buffer that is long enough and names at most eight characters writes
NAME_LEN, NAME and every field from it; every other buffer raises MALFORMED_BUFFER, IN_LEN > IN_CAP LENGTH_RANGE; nothing
else changes but STATUS. -/
def Obligations.DecodeWritesThePatch : Prop :=
  (∀ (s : State) (u : List Byte), HasInput s u → ¬ decodeMalformed u →
    ∃ t, exec .decode s = .next t ∧
      t = { s with nameLen := t.nameLen, name := t.name, f := t.f, status := successStatus s.status } ∧
      IsDecodedFrom u (if u.getD 0x14 0 = 0x14 then 0x34 else 0x38) t) ∧
  (∀ (s : State) (u : List Byte), HasInput s u → decodeMalformed u →
    exec .decode s = .next { s with status := errorStatus s.status 0x02 }) ∧
  (∀ s : State, s.inCap < s.inLen.toNat → exec .decode s = .next { s with status := errorStatus s.status 0x05 })

/-- 45_framer.md R212 to R214: DECODE_INBOUND of a message of more than 20 bytes unpacks it and decodes the result, with
no other check; a message that is too short, does not unpack or does not decode raises MALFORMED_BUFFER, IN_LEN > IN_CAP
LENGTH_RANGE; nothing else changes but STATUS. -/
def Obligations.DecodeInboundWritesThePatch : Prop :=
  (∀ (s : State) (b d u : List Byte), HasInput s b → 20 < b.length → IsBodyOf b d → d ≠ [] → d.length % 8 ≠ 1 →
    IsUnpacked d u → ¬ decodeMalformed u →
    ∃ t, exec .decodeInbound s = .next t ∧
      t = { s with nameLen := t.nameLen, name := t.name, f := t.f, status := successStatus s.status } ∧
      IsDecodedFrom u (if u.getD 0x14 0 = 0x14 then 0x34 else 0x38) t) ∧
  (∀ (s : State) (b : List Byte), HasInput s b →
    (b.length ≤ 20 ∨ unpackMalformed b ∨ ∃ d u, IsBodyOf b d ∧ IsUnpacked d u ∧ decodeMalformed u) →
    exec .decodeInbound s = .next { s with status := errorStatus s.status 0x02 }) ∧
  (∀ s : State, s.inCap < s.inLen.toNat → exec .decodeInbound s = .next { s with status := errorStatus s.status 0x05 })

/-- 44_patch_codec.md R171 to R177: ENCODE_PAYLOAD writes the 0x88-byte payload and OUT_LEN and changes nothing else but
STATUS. BUFFER_OVERFLOW cannot occur (00_scope.md R9). -/
def Obligations.EncodePayloadWritesThePayload : Prop :=
  ∀ s : State,
    ∃ pl t, IsPayload s.layout s.f pl ∧ exec .encodePayload s = .next t ∧
      t = { s with mem := t.mem, outLen := 0x88, status := successStatus s.status } ∧
      ObufHolds t 0 pl ∧ SameOutsideObuf s t 0x88

/-- 44_patch_codec.md R178: decoding a buffer whose payload is the encoding of a register file gives back every field
whose kind is not FB. -/
def Obligations.FieldsSurviveEncodeThenDecode : Prop :=
  ∀ (p : CheckedParams) (f : Vector (BitVec 24) 121) (u : List Byte) (r : DecodedPatch), FieldsFit f →
    decodePatch p.1.layout u = .ok r → (u.drop (payloadStart u)).take 0x88 = encodePayload p.1.layout f →
    ∀ i, kindAt i ≠ .fb → r.fields.get i = f.get i

/-- 44_patch_codec.md R179: what decode after encode makes of a Feedback value: the general formula, its form inside
-1280..1279, its fixed points, and the rule's examples. -/
def Obligations.FeedbackRoundTripIsTheStatedRule : Prop :=
  (∀ (p : CheckedParams) (f : Vector (BitVec 24) 121) (u : List Byte) (r : DecodedPatch) (i : Fin 121),
    kindAt i = .fb → decodePatch p.1.layout u = .ok r →
    (u.drop (payloadStart u)).take 0x88 = encodePayload p.1.layout f →
    fieldValue i (r.fields.get i) = feedbackRoundTrip (fieldValue i (f.get i))) ∧
  (∀ v : Int, -1280 ≤ v → v ≤ 1279 →
    feedbackRoundTrip v =
      (if 0 ≤ v then v - v % 10 + 1 else if v % 10 = 0 then v + 1 else v - v % 10 - 1)) ∧
  (∀ v : Int, -32768 ≤ v → v ≤ 32767 → (feedbackRoundTrip v = v ↔ 1 ≤ v ∧ v ≤ 1271 ∧ v % 10 = 1)) ∧
  feedbackRoundTrip 0 = 1 ∧ feedbackRoundTrip 10 = 11 ∧ feedbackRoundTrip 123 = 121 ∧ feedbackRoundTrip (-5) = -11 ∧
  feedbackRoundTrip (-10) = -9 ∧ feedbackRoundTrip (-11) = -21 ∧ feedbackRoundTrip 640 = 641 ∧
  feedbackRoundTrip (-630) = -629

/-- 44_patch_codec.md R182: under a well-formed layout the fields use 0x85 bytes in total, and every payload byte
0x00..0x84 belongs to exactly one field or to one curve pair. -/
def Obligations.FieldsFillThePayload : Prop :=
  ∀ L : Layout, L.wf = true →
    L.claimed.length = 0x85 ∧
    ∀ o, o ≤ 0x84 → ∃ i : Fin 121, kindAt i ≠ .bit4 ∧ o ∈ L.fieldBytes i ∧
      ∀ j : Fin 121, kindAt j ≠ .bit4 → o ∈ L.fieldBytes j → j = i

/-- 45_framer.md R203 to R210: ENCODE_BURST of a name of 4 to 8 characters writes the three framed messages back to back,
their lengths, OUT_LEN and CRC; any other NAME_LEN raises NAME_LENGTH; nothing else changes but STATUS. BUFFER_OVERFLOW
cannot occur (00_scope.md R9). -/
def Obligations.EncodeBurstWritesThreeMessages : Prop :=
  (∀ s : State, 4 ≤ s.nameLen.toNat → s.nameLen.toNat ≤ 8 →
    ∃ pl q1 q2 q3 t,
      IsPayload s.layout s.f pl ∧
      IsPacked (s.header ++ [0x01]) [4, 0, 0, 0, if s.nameLen = 4 then 0xBC else 0xC0, 0, 0, 0] q1 ∧
      IsPacked (s.header ++ [0x02]) (rawDataMessage s.nameLen.toNat (s.name.toList.take s.nameLen.toNat) pl) q2 ∧
      IsPacked (s.header ++ [0x03]) (le32 t.crc) q3 ∧
      t.crc = crcBitSerial (rawDataMessage s.nameLen.toNat (s.name.toList.take s.nameLen.toNat) pl) ∧
      exec .encodeBurst s = .next t ∧
      t = { s with
            mem := t.mem, crc := t.crc
            msgLen0 := 20, msgLen1 := if s.nameLen = 4 then 225 else 230, msgLen2 := 15
            outLen := if s.nameLen = 4 then 260 else 265
            status := successStatus s.status } ∧
      ObufHolds t 0 (q1 ++ [0xF7]) ∧ ObufHolds t 20 (q2 ++ [0xF7]) ∧
      ObufHolds t (20 + (if s.nameLen = 4 then 225 else 230)) (q3 ++ [0xF7]) ∧
      q1.length = 19 ∧ q2.length = (if s.nameLen = 4 then 224 else 229) ∧ q3.length = 14 ∧
      SameOutsideObuf s t (if s.nameLen = 4 then 260 else 265)) ∧
  (∀ s : State, s.nameLen.toNat < 4 ∨ 8 < s.nameLen.toNat →
    exec .encodeBurst s = .next { s with status := errorStatus s.status 0x04 })

/-- 70_reset_and_hazards.md R278, 10_state.md R30: after a burst the three messages the host transmits are
OBUF[0..MSG_LEN0), OBUF[MSG_LEN0..MSG_LEN0+MSG_LEN1) and OBUF[MSG_LEN0+MSG_LEN1..OUT_LEN); each starts with DEVICE_HEADER
and its sequence number and ends with 0xF7 (45_framer.md R209, R211). -/
def Obligations.BurstIsTransmittedInOrder : Prop :=
  ∀ (s t : State) (x1 x2 x3 : Transmission), 4 ≤ s.nameLen.toNat → s.nameLen.toNat ≤ 8 →
    exec .encodeBurst s = .next t → TransmitsBurst t x1 x2 x3 →
    t.mem.readBytes obufBase t.outLen.toNat = some (x1.bytes ++ x2.bytes ++ x3.bytes) ∧
    x1.bytes.length = t.msgLen0.toNat ∧ x2.bytes.length = t.msgLen1.toNat ∧ x3.bytes.length = t.msgLen2.toNat ∧
    x1.bytes.take 9 = s.header ++ [0x01] ∧ x2.bytes.take 9 = s.header ++ [0x02] ∧ x3.bytes.take 9 = s.header ++ [0x03] ∧
    x1.bytes.getLast? = some 0xF7 ∧ x2.bytes.getLast? = some 0xF7 ∧ x3.bytes.getLast? = some 0xF7

/-- 45_framer.md R207, R208, R211: in every burst the checksum that message 3 carries, and that CRC holds, is the CRC32 of
the bytes message 2 unpacks to. -/
def Obligations.BurstChecksumMatchesItsData : Prop :=
  ∀ s t : State, 4 ≤ s.nameLen.toNat → s.nameLen.toNat ≤ 8 → exec .encodeBurst s = .next t →
    ∃ m1 m2 m3 u1 u2, t.burstMessage 0 = some m1 ∧ t.burstMessage 1 = some m2 ∧ t.burstMessage 2 = some m3 ∧
      unpack78 m1 = .ok u1 ∧ u1 = le32 4 ++ le32 (BitVec.ofNat 32 u2.length) ∧
      unpack78 m2 = .ok u2 ∧ unpack78 m3 = .ok (le32 (crc32 u2)) ∧ t.crc = crc32 u2

/-- 45_framer.md R215: message 2 of a burst unpacks to its raw bytes after the prefix, which end with the payload, and
DECODE_INBOUND of it returns the same NAME_LEN, the same NAME[0..NAME_LEN) and
every field unchanged except FEEDBACK, which follows 44_patch_codec.md R179. -/
def Obligations.BurstDecodesBackToItsPatch : Prop :=
  ∀ (s t v : State) (m2 : List Byte), 4 ≤ s.nameLen.toNat → s.nameLen.toNat ≤ 8 → FieldsFit s.f →
    exec .encodeBurst s = .next t → t.burstMessage 1 = some m2 → v.par = s.par → HasInput v m2 →
    (∃ u pl, IsPayload s.layout s.f pl ∧
      u = rawDataMessage s.nameLen.toNat (s.name.toList.take s.nameLen.toNat) pl ∧
      unpack78 m2 = .ok u ∧ u.length = (if u.getD 0x14 0 = 0x14 then 0x34 else 0x38) + 0x88) ∧
    ∃ x, exec .decodeInbound v = .next x ∧
      x = { v with nameLen := s.nameLen, name := x.name, f := x.f, status := successStatus v.status } ∧
      (∀ k : Fin 8, k.val < s.nameLen.toNat → x.name.get k = s.name.get k) ∧
      (∀ i, kindAt i ≠ .fb → x.f.get i = s.f.get i) ∧
      (∀ i, kindAt i = .fb → fieldValue i (x.f.get i) = feedbackRoundTrip (fieldValue i (s.f.get i)))

/-- 00_scope.md R10: with the default capacities no command raises BUFFER_OVERFLOW. -/
def Obligations.DefaultCapacitiesNeverOverflow : Prop :=
  ∀ (i : Instr) (s t : State), s.inCap = 1024 → s.outCap = 1280 → s.status.ecode = 0 → exec i s = .next t →
    t.status.ecode ≠ 0x03

/-- 10_state.md R22, R29, R32: on an idle block a host write to IN_LEN keeps its low 16 bits and one to CONV_IN all 32, each
reads back what it keeps, and nothing else changes but the response. -/
def Obligations.InLenAndConvInReadBack : Prop :=
  ∀ (s : State) (d : Word), s.status.busy = false →
    (s.hostWrite .w32 0x0008 d = { s with inLen := d.extractLsb' 0 16, resp := some .ack } ∧
      (s.hostWrite .w32 0x0008 d).busRead .w32 0x0008 = .data (d &&& 0x0000FFFF)) ∧
    (s.hostWrite .w32 0x0020 d = { s with convIn := d, resp := some .ack } ∧
      (s.hostWrite .w32 0x0020 d).busRead .w32 0x0020 = .data d)
end

