-- ==== Sys2Proof/Laws/Bits.lean ====
section
/-! SUPPORT. Chunks, byte order and truncation: the small lemmas of Machine/Bits.lean. -/

namespace Sys2Proof

variable {α : Type}

@[simp] theorem chunks_nil (n : Nat) : chunks n ([] : List α) = [] := rfl

theorem chunksUpTo_enough (n : Nat) (hn : 0 < n) (k : Nat) (xs : List α) (h : xs.length ≤ k) :
    chunksUpTo n k xs = chunks n xs := by
  induction k using Nat.strongRecOn generalizing xs with
  | _ k ih =>
    cases xs with
    | nil => cases k <;> rfl
    | cons x xs =>
      cases k with
      | zero => simp at h
      | succ k =>
        have hd : ((x :: xs).drop n).length ≤ xs.length := by simp; omega
        have e1 : chunksUpTo n k ((x :: xs).drop n) = chunks n ((x :: xs).drop n) :=
          ih k (by omega) _ (by simp at h; omega)
        have e2 : chunksUpTo n xs.length ((x :: xs).drop n) = chunks n ((x :: xs).drop n) := by
          by_cases hx : xs.length < k + 1
          · exact ih xs.length hx _ hd
          · simp at h; omega
        show (x :: xs).take n :: chunksUpTo n k ((x :: xs).drop n) =
          (x :: xs).take n :: chunksUpTo n xs.length ((x :: xs).drop n)
        rw [e1, e2]

/-- The recursion equation of chunks. -/
theorem chunks_step (n : Nat) (hn : 0 < n) (xs : List α) (h : xs ≠ []) :
    chunks n xs = xs.take n :: chunks n (xs.drop n) := by
  cases xs with
  | nil => exact absurd rfl h
  | cons x xs =>
    show (x :: xs).take n :: chunksUpTo n xs.length ((x :: xs).drop n) = _
    rw [chunksUpTo_enough n hn xs.length _ (by simp; omega)]

/-- Induction over the groups of a sequence. -/
theorem chunks_induction {P : List α → Prop} (n : Nat) (hn : 0 < n) (nil : P [])
    (step : ∀ xs, xs ≠ [] → P (xs.drop n) → P xs) (xs : List α) : P xs := by
  generalize hl : xs.length = l
  induction l using Nat.strongRecOn generalizing xs with
  | _ l ih =>
    by_cases h : xs = []
    · exact h ▸ nil
    · have hp := List.length_pos_iff.2 h
      exact step xs h (ih _ (by simp; omega) _ rfl)

@[simp] theorem le32_length (v : Word) : (le32 v).length = 4 := rfl

theorem truncN_lt (n : Nat) (v : Int) : truncN n v < 2 ^ n := by
  unfold truncN
  have h : (0 : Int) < 2 ^ n := by positivity
  have h1 := Int.emod_nonneg v (ne_of_gt h)
  have h2 := Int.emod_lt_of_pos v h
  zify
  rw [Int.toNat_of_nonneg h1]
  exact h2

end Sys2Proof
end

