-- ==== Sys2Proof/Laws/State.lean ====
section
/-! SUPPORT. One lemma per field per named update: what it puts there or that it leaves the field alone. -/

namespace Sys2Proof.Machine

@[simp] theorem complete_par (s : State) : s.complete.par = s.par := rfl
@[simp] theorem complete_status (s : State) : s.complete.status = s.status.completed := rfl
@[simp] theorem complete_inLen (s : State) : s.complete.inLen = s.inLen := rfl
@[simp] theorem complete_outLen (s : State) : s.complete.outLen = s.outLen := rfl
@[simp] theorem complete_msgLen0 (s : State) : s.complete.msgLen0 = s.msgLen0 := rfl
@[simp] theorem complete_msgLen1 (s : State) : s.complete.msgLen1 = s.msgLen1 := rfl
@[simp] theorem complete_msgLen2 (s : State) : s.complete.msgLen2 = s.msgLen2 := rfl
@[simp] theorem complete_crc (s : State) : s.complete.crc = s.crc := rfl
@[simp] theorem complete_convIn (s : State) : s.complete.convIn = s.convIn := rfl
@[simp] theorem complete_convOut (s : State) : s.complete.convOut = s.convOut := rfl
@[simp] theorem complete_nameLen (s : State) : s.complete.nameLen = s.nameLen := rfl
@[simp] theorem complete_name (s : State) : s.complete.name = s.name := rfl
@[simp] theorem complete_f (s : State) : s.complete.f = s.f := rfl
@[simp] theorem complete_pend (s : State) : s.complete.pend = s.pend := rfl
@[simp] theorem complete_mem (s : State) : s.complete.mem = s.mem := rfl
@[simp] theorem complete_host (s : State) : s.complete.host = s.host := rfl
@[simp] theorem complete_resp (s : State) : s.complete.resp = s.resp := rfl
@[simp] theorem complete_wait (s : State) : s.complete.wait = s.wait := rfl
@[simp] theorem complete_hazard (s : State) : s.complete.hazard = s.hazard := rfl
@[simp] theorem complete_draws (s : State) : s.complete.draws = s.draws := rfl

@[simp] theorem raiseError_par (s : State) (e : ErrorCode) : (s.raiseError e).par = s.par := rfl
@[simp] theorem raiseError_status (s : State) (e : ErrorCode) : (s.raiseError e).status = s.status.failed e := rfl
@[simp] theorem raiseError_inLen (s : State) (e : ErrorCode) : (s.raiseError e).inLen = s.inLen := rfl
@[simp] theorem raiseError_outLen (s : State) (e : ErrorCode) : (s.raiseError e).outLen = s.outLen := rfl
@[simp] theorem raiseError_msgLen0 (s : State) (e : ErrorCode) : (s.raiseError e).msgLen0 = s.msgLen0 := rfl
@[simp] theorem raiseError_msgLen1 (s : State) (e : ErrorCode) : (s.raiseError e).msgLen1 = s.msgLen1 := rfl
@[simp] theorem raiseError_msgLen2 (s : State) (e : ErrorCode) : (s.raiseError e).msgLen2 = s.msgLen2 := rfl
@[simp] theorem raiseError_crc (s : State) (e : ErrorCode) : (s.raiseError e).crc = s.crc := rfl
@[simp] theorem raiseError_convIn (s : State) (e : ErrorCode) : (s.raiseError e).convIn = s.convIn := rfl
@[simp] theorem raiseError_convOut (s : State) (e : ErrorCode) : (s.raiseError e).convOut = s.convOut := rfl
@[simp] theorem raiseError_nameLen (s : State) (e : ErrorCode) : (s.raiseError e).nameLen = s.nameLen := rfl
@[simp] theorem raiseError_name (s : State) (e : ErrorCode) : (s.raiseError e).name = s.name := rfl
@[simp] theorem raiseError_f (s : State) (e : ErrorCode) : (s.raiseError e).f = s.f := rfl
@[simp] theorem raiseError_pend (s : State) (e : ErrorCode) : (s.raiseError e).pend = s.pend := rfl
@[simp] theorem raiseError_mem (s : State) (e : ErrorCode) : (s.raiseError e).mem = s.mem := rfl
@[simp] theorem raiseError_host (s : State) (e : ErrorCode) : (s.raiseError e).host = s.host := rfl
@[simp] theorem raiseError_resp (s : State) (e : ErrorCode) : (s.raiseError e).resp = s.resp := rfl
@[simp] theorem raiseError_wait (s : State) (e : ErrorCode) : (s.raiseError e).wait = s.wait := rfl
@[simp] theorem raiseError_hazard (s : State) (e : ErrorCode) : (s.raiseError e).hazard = s.hazard := rfl
@[simp] theorem raiseError_draws (s : State) (e : ErrorCode) : (s.raiseError e).draws = s.draws := rfl

@[simp] theorem writeObuf_par (s : State) (i : Nat) (bs : List Byte) : (s.writeObuf i bs).par = s.par := rfl
@[simp] theorem writeObuf_status (s : State) (i : Nat) (bs : List Byte) : (s.writeObuf i bs).status = s.status := rfl
@[simp] theorem writeObuf_inLen (s : State) (i : Nat) (bs : List Byte) : (s.writeObuf i bs).inLen = s.inLen := rfl
@[simp] theorem writeObuf_outLen (s : State) (i : Nat) (bs : List Byte) : (s.writeObuf i bs).outLen = s.outLen := rfl
@[simp] theorem writeObuf_msgLen0 (s : State) (i : Nat) (bs : List Byte) : (s.writeObuf i bs).msgLen0 = s.msgLen0 := rfl
@[simp] theorem writeObuf_msgLen1 (s : State) (i : Nat) (bs : List Byte) : (s.writeObuf i bs).msgLen1 = s.msgLen1 := rfl
@[simp] theorem writeObuf_msgLen2 (s : State) (i : Nat) (bs : List Byte) : (s.writeObuf i bs).msgLen2 = s.msgLen2 := rfl
@[simp] theorem writeObuf_crc (s : State) (i : Nat) (bs : List Byte) : (s.writeObuf i bs).crc = s.crc := rfl
@[simp] theorem writeObuf_convIn (s : State) (i : Nat) (bs : List Byte) : (s.writeObuf i bs).convIn = s.convIn := rfl
@[simp] theorem writeObuf_convOut (s : State) (i : Nat) (bs : List Byte) : (s.writeObuf i bs).convOut = s.convOut := rfl
@[simp] theorem writeObuf_nameLen (s : State) (i : Nat) (bs : List Byte) : (s.writeObuf i bs).nameLen = s.nameLen := rfl
@[simp] theorem writeObuf_name (s : State) (i : Nat) (bs : List Byte) : (s.writeObuf i bs).name = s.name := rfl
@[simp] theorem writeObuf_f (s : State) (i : Nat) (bs : List Byte) : (s.writeObuf i bs).f = s.f := rfl
@[simp] theorem writeObuf_pend (s : State) (i : Nat) (bs : List Byte) : (s.writeObuf i bs).pend = s.pend := rfl
@[simp] theorem writeObuf_mem (s : State) (i : Nat) (bs : List Byte) : (s.writeObuf i bs).mem = s.mem.writeBytes (obufBase + i) bs := rfl
@[simp] theorem writeObuf_host (s : State) (i : Nat) (bs : List Byte) : (s.writeObuf i bs).host = s.host := rfl
@[simp] theorem writeObuf_resp (s : State) (i : Nat) (bs : List Byte) : (s.writeObuf i bs).resp = s.resp := rfl
@[simp] theorem writeObuf_wait (s : State) (i : Nat) (bs : List Byte) : (s.writeObuf i bs).wait = s.wait := rfl
@[simp] theorem writeObuf_hazard (s : State) (i : Nat) (bs : List Byte) : (s.writeObuf i bs).hazard = s.hazard := rfl
@[simp] theorem writeObuf_draws (s : State) (i : Nat) (bs : List Byte) : (s.writeObuf i bs).draws = s.draws := rfl

@[simp] theorem storeResult_par (s : State) (bs : List Byte) : (s.storeResult bs).par = s.par := rfl
@[simp] theorem storeResult_status (s : State) (bs : List Byte) : (s.storeResult bs).status = s.status := rfl
@[simp] theorem storeResult_inLen (s : State) (bs : List Byte) : (s.storeResult bs).inLen = s.inLen := rfl
@[simp] theorem storeResult_outLen (s : State) (bs : List Byte) : (s.storeResult bs).outLen = BitVec.ofNat 16 bs.length := rfl
@[simp] theorem storeResult_msgLen0 (s : State) (bs : List Byte) : (s.storeResult bs).msgLen0 = s.msgLen0 := rfl
@[simp] theorem storeResult_msgLen1 (s : State) (bs : List Byte) : (s.storeResult bs).msgLen1 = s.msgLen1 := rfl
@[simp] theorem storeResult_msgLen2 (s : State) (bs : List Byte) : (s.storeResult bs).msgLen2 = s.msgLen2 := rfl
@[simp] theorem storeResult_crc (s : State) (bs : List Byte) : (s.storeResult bs).crc = s.crc := rfl
@[simp] theorem storeResult_convIn (s : State) (bs : List Byte) : (s.storeResult bs).convIn = s.convIn := rfl
@[simp] theorem storeResult_convOut (s : State) (bs : List Byte) : (s.storeResult bs).convOut = s.convOut := rfl
@[simp] theorem storeResult_nameLen (s : State) (bs : List Byte) : (s.storeResult bs).nameLen = s.nameLen := rfl
@[simp] theorem storeResult_name (s : State) (bs : List Byte) : (s.storeResult bs).name = s.name := rfl
@[simp] theorem storeResult_f (s : State) (bs : List Byte) : (s.storeResult bs).f = s.f := rfl
@[simp] theorem storeResult_pend (s : State) (bs : List Byte) : (s.storeResult bs).pend = s.pend := rfl
@[simp] theorem storeResult_mem (s : State) (bs : List Byte) : (s.storeResult bs).mem = s.mem.writeBytes (obufBase + 0) bs := rfl
@[simp] theorem storeResult_host (s : State) (bs : List Byte) : (s.storeResult bs).host = s.host := rfl
@[simp] theorem storeResult_resp (s : State) (bs : List Byte) : (s.storeResult bs).resp = s.resp := rfl
@[simp] theorem storeResult_wait (s : State) (bs : List Byte) : (s.storeResult bs).wait = s.wait := rfl
@[simp] theorem storeResult_hazard (s : State) (bs : List Byte) : (s.storeResult bs).hazard = s.hazard := rfl
@[simp] theorem storeResult_draws (s : State) (bs : List Byte) : (s.storeResult bs).draws = s.draws := rfl

@[simp] theorem storeBurst_par (s : State) (b : Burst) : (s.storeBurst b).par = s.par := rfl
@[simp] theorem storeBurst_status (s : State) (b : Burst) : (s.storeBurst b).status = s.status := rfl
@[simp] theorem storeBurst_inLen (s : State) (b : Burst) : (s.storeBurst b).inLen = s.inLen := rfl
@[simp] theorem storeBurst_outLen (s : State) (b : Burst) : (s.storeBurst b).outLen = BitVec.ofNat 16 (b.m1.length + b.m2.length + b.m3.length) := rfl
@[simp] theorem storeBurst_msgLen0 (s : State) (b : Burst) : (s.storeBurst b).msgLen0 = BitVec.ofNat 16 b.m1.length := rfl
@[simp] theorem storeBurst_msgLen1 (s : State) (b : Burst) : (s.storeBurst b).msgLen1 = BitVec.ofNat 16 b.m2.length := rfl
@[simp] theorem storeBurst_msgLen2 (s : State) (b : Burst) : (s.storeBurst b).msgLen2 = BitVec.ofNat 16 b.m3.length := rfl
@[simp] theorem storeBurst_crc (s : State) (b : Burst) : (s.storeBurst b).crc = b.crc := rfl
@[simp] theorem storeBurst_convIn (s : State) (b : Burst) : (s.storeBurst b).convIn = s.convIn := rfl
@[simp] theorem storeBurst_convOut (s : State) (b : Burst) : (s.storeBurst b).convOut = s.convOut := rfl
@[simp] theorem storeBurst_nameLen (s : State) (b : Burst) : (s.storeBurst b).nameLen = s.nameLen := rfl
@[simp] theorem storeBurst_name (s : State) (b : Burst) : (s.storeBurst b).name = s.name := rfl
@[simp] theorem storeBurst_f (s : State) (b : Burst) : (s.storeBurst b).f = s.f := rfl
@[simp] theorem storeBurst_pend (s : State) (b : Burst) : (s.storeBurst b).pend = s.pend := rfl
@[simp] theorem storeBurst_mem (s : State) (b : Burst) : (s.storeBurst b).mem = 
    ((s.mem.writeBytes (obufBase + 0) b.m1).writeBytes (obufBase + b.m1.length) b.m2).writeBytes
      (obufBase + (b.m1.length + b.m2.length)) b.m3 := rfl
@[simp] theorem storeBurst_host (s : State) (b : Burst) : (s.storeBurst b).host = s.host := rfl
@[simp] theorem storeBurst_resp (s : State) (b : Burst) : (s.storeBurst b).resp = s.resp := rfl
@[simp] theorem storeBurst_wait (s : State) (b : Burst) : (s.storeBurst b).wait = s.wait := rfl
@[simp] theorem storeBurst_hazard (s : State) (b : Burst) : (s.storeBurst b).hazard = s.hazard := rfl
@[simp] theorem storeBurst_draws (s : State) (b : Burst) : (s.storeBurst b).draws = s.draws := rfl

@[simp] theorem setPatch_par (s : State) (p : DecodedPatch) : (s.setPatch p).par = s.par := rfl
@[simp] theorem setPatch_status (s : State) (p : DecodedPatch) : (s.setPatch p).status = s.status := rfl
@[simp] theorem setPatch_inLen (s : State) (p : DecodedPatch) : (s.setPatch p).inLen = s.inLen := rfl
@[simp] theorem setPatch_outLen (s : State) (p : DecodedPatch) : (s.setPatch p).outLen = s.outLen := rfl
@[simp] theorem setPatch_msgLen0 (s : State) (p : DecodedPatch) : (s.setPatch p).msgLen0 = s.msgLen0 := rfl
@[simp] theorem setPatch_msgLen1 (s : State) (p : DecodedPatch) : (s.setPatch p).msgLen1 = s.msgLen1 := rfl
@[simp] theorem setPatch_msgLen2 (s : State) (p : DecodedPatch) : (s.setPatch p).msgLen2 = s.msgLen2 := rfl
@[simp] theorem setPatch_crc (s : State) (p : DecodedPatch) : (s.setPatch p).crc = s.crc := rfl
@[simp] theorem setPatch_convIn (s : State) (p : DecodedPatch) : (s.setPatch p).convIn = s.convIn := rfl
@[simp] theorem setPatch_convOut (s : State) (p : DecodedPatch) : (s.setPatch p).convOut = s.convOut := rfl
@[simp] theorem setPatch_nameLen (s : State) (p : DecodedPatch) : (s.setPatch p).nameLen = BitVec.ofNat 4 p.count := rfl
@[simp] theorem setPatch_name (s : State) (p : DecodedPatch) : (s.setPatch p).name = p.name := rfl
@[simp] theorem setPatch_f (s : State) (p : DecodedPatch) : (s.setPatch p).f = p.fields := rfl
@[simp] theorem setPatch_pend (s : State) (p : DecodedPatch) : (s.setPatch p).pend = s.pend := rfl
@[simp] theorem setPatch_mem (s : State) (p : DecodedPatch) : (s.setPatch p).mem = s.mem := rfl
@[simp] theorem setPatch_host (s : State) (p : DecodedPatch) : (s.setPatch p).host = s.host := rfl
@[simp] theorem setPatch_resp (s : State) (p : DecodedPatch) : (s.setPatch p).resp = s.resp := rfl
@[simp] theorem setPatch_wait (s : State) (p : DecodedPatch) : (s.setPatch p).wait = s.wait := rfl
@[simp] theorem setPatch_hazard (s : State) (p : DecodedPatch) : (s.setPatch p).hazard = s.hazard := rfl
@[simp] theorem setPatch_draws (s : State) (p : DecodedPatch) : (s.setPatch p).draws = s.draws := rfl

@[simp] theorem accept_par (s : State) (w : Word) : (s.accept w).par = s.par := rfl
@[simp] theorem accept_status (s : State) (w : Word) : (s.accept w).status = Status.accepted := rfl
@[simp] theorem accept_inLen (s : State) (w : Word) : (s.accept w).inLen = s.inLen := rfl
@[simp] theorem accept_outLen (s : State) (w : Word) : (s.accept w).outLen = s.outLen := rfl
@[simp] theorem accept_msgLen0 (s : State) (w : Word) : (s.accept w).msgLen0 = s.msgLen0 := rfl
@[simp] theorem accept_msgLen1 (s : State) (w : Word) : (s.accept w).msgLen1 = s.msgLen1 := rfl
@[simp] theorem accept_msgLen2 (s : State) (w : Word) : (s.accept w).msgLen2 = s.msgLen2 := rfl
@[simp] theorem accept_crc (s : State) (w : Word) : (s.accept w).crc = s.crc := rfl
@[simp] theorem accept_convIn (s : State) (w : Word) : (s.accept w).convIn = s.convIn := rfl
@[simp] theorem accept_convOut (s : State) (w : Word) : (s.accept w).convOut = s.convOut := rfl
@[simp] theorem accept_nameLen (s : State) (w : Word) : (s.accept w).nameLen = s.nameLen := rfl
@[simp] theorem accept_name (s : State) (w : Word) : (s.accept w).name = s.name := rfl
@[simp] theorem accept_f (s : State) (w : Word) : (s.accept w).f = s.f := rfl
@[simp] theorem accept_pend (s : State) (w : Word) : (s.accept w).pend = w := rfl
@[simp] theorem accept_mem (s : State) (w : Word) : (s.accept w).mem = s.mem := rfl
@[simp] theorem accept_host (s : State) (w : Word) : (s.accept w).host = s.host := rfl
@[simp] theorem accept_resp (s : State) (w : Word) : (s.accept w).resp = s.resp := rfl
@[simp] theorem accept_wait (s : State) (w : Word) : (s.accept w).wait = Config.latency s.draws := rfl
@[simp] theorem accept_hazard (s : State) (w : Word) : (s.accept w).hazard = false := rfl
@[simp] theorem accept_draws (s : State) (w : Word) : (s.accept w).draws = s.draws + 1 := rfl

@[simp] theorem writeField_par (s : State) (i : Fin 121) (v : Int) : (s.writeField i v).par = s.par := rfl
@[simp] theorem writeField_status (s : State) (i : Fin 121) (v : Int) : (s.writeField i v).status = s.status := rfl
@[simp] theorem writeField_inLen (s : State) (i : Fin 121) (v : Int) : (s.writeField i v).inLen = s.inLen := rfl
@[simp] theorem writeField_outLen (s : State) (i : Fin 121) (v : Int) : (s.writeField i v).outLen = s.outLen := rfl
@[simp] theorem writeField_msgLen0 (s : State) (i : Fin 121) (v : Int) : (s.writeField i v).msgLen0 = s.msgLen0 := rfl
@[simp] theorem writeField_msgLen1 (s : State) (i : Fin 121) (v : Int) : (s.writeField i v).msgLen1 = s.msgLen1 := rfl
@[simp] theorem writeField_msgLen2 (s : State) (i : Fin 121) (v : Int) : (s.writeField i v).msgLen2 = s.msgLen2 := rfl
@[simp] theorem writeField_crc (s : State) (i : Fin 121) (v : Int) : (s.writeField i v).crc = s.crc := rfl
@[simp] theorem writeField_convIn (s : State) (i : Fin 121) (v : Int) : (s.writeField i v).convIn = s.convIn := rfl
@[simp] theorem writeField_convOut (s : State) (i : Fin 121) (v : Int) : (s.writeField i v).convOut = s.convOut := rfl
@[simp] theorem writeField_nameLen (s : State) (i : Fin 121) (v : Int) : (s.writeField i v).nameLen = s.nameLen := rfl
@[simp] theorem writeField_name (s : State) (i : Fin 121) (v : Int) : (s.writeField i v).name = s.name := rfl
@[simp] theorem writeField_f (s : State) (i : Fin 121) (v : Int) : (s.writeField i v).f = s.f.set i.val (fieldCell i v) i.isLt := rfl
@[simp] theorem writeField_pend (s : State) (i : Fin 121) (v : Int) : (s.writeField i v).pend = s.pend := rfl
@[simp] theorem writeField_mem (s : State) (i : Fin 121) (v : Int) : (s.writeField i v).mem = s.mem := rfl
@[simp] theorem writeField_host (s : State) (i : Fin 121) (v : Int) : (s.writeField i v).host = s.host := rfl
@[simp] theorem writeField_resp (s : State) (i : Fin 121) (v : Int) : (s.writeField i v).resp = s.resp := rfl
@[simp] theorem writeField_wait (s : State) (i : Fin 121) (v : Int) : (s.writeField i v).wait = s.wait := rfl
@[simp] theorem writeField_hazard (s : State) (i : Fin 121) (v : Int) : (s.writeField i v).hazard = s.hazard := rfl
@[simp] theorem writeField_draws (s : State) (i : Fin 121) (v : Int) : (s.writeField i v).draws = s.draws := rfl

@[simp] theorem writeNameW0_par (s : State) (w : Word) : (s.writeNameW0 w).par = s.par := rfl
@[simp] theorem writeNameW0_status (s : State) (w : Word) : (s.writeNameW0 w).status = s.status := rfl
@[simp] theorem writeNameW0_inLen (s : State) (w : Word) : (s.writeNameW0 w).inLen = s.inLen := rfl
@[simp] theorem writeNameW0_outLen (s : State) (w : Word) : (s.writeNameW0 w).outLen = s.outLen := rfl
@[simp] theorem writeNameW0_msgLen0 (s : State) (w : Word) : (s.writeNameW0 w).msgLen0 = s.msgLen0 := rfl
@[simp] theorem writeNameW0_msgLen1 (s : State) (w : Word) : (s.writeNameW0 w).msgLen1 = s.msgLen1 := rfl
@[simp] theorem writeNameW0_msgLen2 (s : State) (w : Word) : (s.writeNameW0 w).msgLen2 = s.msgLen2 := rfl
@[simp] theorem writeNameW0_crc (s : State) (w : Word) : (s.writeNameW0 w).crc = s.crc := rfl
@[simp] theorem writeNameW0_convIn (s : State) (w : Word) : (s.writeNameW0 w).convIn = s.convIn := rfl
@[simp] theorem writeNameW0_convOut (s : State) (w : Word) : (s.writeNameW0 w).convOut = s.convOut := rfl
@[simp] theorem writeNameW0_nameLen (s : State) (w : Word) : (s.writeNameW0 w).nameLen = s.nameLen := rfl
@[simp] theorem writeNameW0_name (s : State) (w : Word) : (s.writeNameW0 w).name = #v[w.extractLsb' 0 8, w.extractLsb' 8 8, w.extractLsb' 16 8, w.extractLsb' 24 8,
    s.name.get 4, s.name.get 5, s.name.get 6, s.name.get 7] := rfl
@[simp] theorem writeNameW0_f (s : State) (w : Word) : (s.writeNameW0 w).f = s.f := rfl
@[simp] theorem writeNameW0_pend (s : State) (w : Word) : (s.writeNameW0 w).pend = s.pend := rfl
@[simp] theorem writeNameW0_mem (s : State) (w : Word) : (s.writeNameW0 w).mem = s.mem := rfl
@[simp] theorem writeNameW0_host (s : State) (w : Word) : (s.writeNameW0 w).host = s.host := rfl
@[simp] theorem writeNameW0_resp (s : State) (w : Word) : (s.writeNameW0 w).resp = s.resp := rfl
@[simp] theorem writeNameW0_wait (s : State) (w : Word) : (s.writeNameW0 w).wait = s.wait := rfl
@[simp] theorem writeNameW0_hazard (s : State) (w : Word) : (s.writeNameW0 w).hazard = s.hazard := rfl
@[simp] theorem writeNameW0_draws (s : State) (w : Word) : (s.writeNameW0 w).draws = s.draws := rfl

@[simp] theorem writeNameW1_par (s : State) (w : Word) : (s.writeNameW1 w).par = s.par := rfl
@[simp] theorem writeNameW1_status (s : State) (w : Word) : (s.writeNameW1 w).status = s.status := rfl
@[simp] theorem writeNameW1_inLen (s : State) (w : Word) : (s.writeNameW1 w).inLen = s.inLen := rfl
@[simp] theorem writeNameW1_outLen (s : State) (w : Word) : (s.writeNameW1 w).outLen = s.outLen := rfl
@[simp] theorem writeNameW1_msgLen0 (s : State) (w : Word) : (s.writeNameW1 w).msgLen0 = s.msgLen0 := rfl
@[simp] theorem writeNameW1_msgLen1 (s : State) (w : Word) : (s.writeNameW1 w).msgLen1 = s.msgLen1 := rfl
@[simp] theorem writeNameW1_msgLen2 (s : State) (w : Word) : (s.writeNameW1 w).msgLen2 = s.msgLen2 := rfl
@[simp] theorem writeNameW1_crc (s : State) (w : Word) : (s.writeNameW1 w).crc = s.crc := rfl
@[simp] theorem writeNameW1_convIn (s : State) (w : Word) : (s.writeNameW1 w).convIn = s.convIn := rfl
@[simp] theorem writeNameW1_convOut (s : State) (w : Word) : (s.writeNameW1 w).convOut = s.convOut := rfl
@[simp] theorem writeNameW1_nameLen (s : State) (w : Word) : (s.writeNameW1 w).nameLen = s.nameLen := rfl
@[simp] theorem writeNameW1_name (s : State) (w : Word) : (s.writeNameW1 w).name = #v[s.name.get 0, s.name.get 1, s.name.get 2, s.name.get 3,
    w.extractLsb' 0 8, w.extractLsb' 8 8, w.extractLsb' 16 8, w.extractLsb' 24 8] := rfl
@[simp] theorem writeNameW1_f (s : State) (w : Word) : (s.writeNameW1 w).f = s.f := rfl
@[simp] theorem writeNameW1_pend (s : State) (w : Word) : (s.writeNameW1 w).pend = s.pend := rfl
@[simp] theorem writeNameW1_mem (s : State) (w : Word) : (s.writeNameW1 w).mem = s.mem := rfl
@[simp] theorem writeNameW1_host (s : State) (w : Word) : (s.writeNameW1 w).host = s.host := rfl
@[simp] theorem writeNameW1_resp (s : State) (w : Word) : (s.writeNameW1 w).resp = s.resp := rfl
@[simp] theorem writeNameW1_wait (s : State) (w : Word) : (s.writeNameW1 w).wait = s.wait := rfl
@[simp] theorem writeNameW1_hazard (s : State) (w : Word) : (s.writeNameW1 w).hazard = s.hazard := rfl
@[simp] theorem writeNameW1_draws (s : State) (w : Word) : (s.writeNameW1 w).draws = s.draws := rfl

@[simp] theorem acknowledge_par (s : State) (b : Bool) : (s.acknowledge b).par = s.par := rfl
@[simp] theorem acknowledge_status (s : State) (b : Bool) : (s.acknowledge b).status = s.status := rfl
@[simp] theorem acknowledge_inLen (s : State) (b : Bool) : (s.acknowledge b).inLen = s.inLen := rfl
@[simp] theorem acknowledge_outLen (s : State) (b : Bool) : (s.acknowledge b).outLen = s.outLen := rfl
@[simp] theorem acknowledge_msgLen0 (s : State) (b : Bool) : (s.acknowledge b).msgLen0 = s.msgLen0 := rfl
@[simp] theorem acknowledge_msgLen1 (s : State) (b : Bool) : (s.acknowledge b).msgLen1 = s.msgLen1 := rfl
@[simp] theorem acknowledge_msgLen2 (s : State) (b : Bool) : (s.acknowledge b).msgLen2 = s.msgLen2 := rfl
@[simp] theorem acknowledge_crc (s : State) (b : Bool) : (s.acknowledge b).crc = s.crc := rfl
@[simp] theorem acknowledge_convIn (s : State) (b : Bool) : (s.acknowledge b).convIn = s.convIn := rfl
@[simp] theorem acknowledge_convOut (s : State) (b : Bool) : (s.acknowledge b).convOut = s.convOut := rfl
@[simp] theorem acknowledge_nameLen (s : State) (b : Bool) : (s.acknowledge b).nameLen = s.nameLen := rfl
@[simp] theorem acknowledge_name (s : State) (b : Bool) : (s.acknowledge b).name = s.name := rfl
@[simp] theorem acknowledge_f (s : State) (b : Bool) : (s.acknowledge b).f = s.f := rfl
@[simp] theorem acknowledge_pend (s : State) (b : Bool) : (s.acknowledge b).pend = s.pend := rfl
@[simp] theorem acknowledge_mem (s : State) (b : Bool) : (s.acknowledge b).mem = s.mem := rfl
@[simp] theorem acknowledge_host (s : State) (b : Bool) : (s.acknowledge b).host = s.host := rfl
@[simp] theorem acknowledge_resp (s : State) (b : Bool) : (s.acknowledge b).resp = some .ack := rfl
@[simp] theorem acknowledge_wait (s : State) (b : Bool) : (s.acknowledge b).wait = s.wait := rfl
@[simp] theorem acknowledge_hazard (s : State) (b : Bool) : (s.acknowledge b).hazard = (s.hazard || b) := rfl
@[simp] theorem acknowledge_draws (s : State) (b : Bool) : (s.acknowledge b).draws = s.draws := rfl

@[simp] theorem hostRead_par (s : State) (w : Width) (a : Half) : (s.hostRead w a).par = s.par := rfl
@[simp] theorem hostRead_status (s : State) (w : Width) (a : Half) : (s.hostRead w a).status = s.status := rfl
@[simp] theorem hostRead_inLen (s : State) (w : Width) (a : Half) : (s.hostRead w a).inLen = s.inLen := rfl
@[simp] theorem hostRead_outLen (s : State) (w : Width) (a : Half) : (s.hostRead w a).outLen = s.outLen := rfl
@[simp] theorem hostRead_msgLen0 (s : State) (w : Width) (a : Half) : (s.hostRead w a).msgLen0 = s.msgLen0 := rfl
@[simp] theorem hostRead_msgLen1 (s : State) (w : Width) (a : Half) : (s.hostRead w a).msgLen1 = s.msgLen1 := rfl
@[simp] theorem hostRead_msgLen2 (s : State) (w : Width) (a : Half) : (s.hostRead w a).msgLen2 = s.msgLen2 := rfl
@[simp] theorem hostRead_crc (s : State) (w : Width) (a : Half) : (s.hostRead w a).crc = s.crc := rfl
@[simp] theorem hostRead_convIn (s : State) (w : Width) (a : Half) : (s.hostRead w a).convIn = s.convIn := rfl
@[simp] theorem hostRead_convOut (s : State) (w : Width) (a : Half) : (s.hostRead w a).convOut = s.convOut := rfl
@[simp] theorem hostRead_nameLen (s : State) (w : Width) (a : Half) : (s.hostRead w a).nameLen = s.nameLen := rfl
@[simp] theorem hostRead_name (s : State) (w : Width) (a : Half) : (s.hostRead w a).name = s.name := rfl
@[simp] theorem hostRead_f (s : State) (w : Width) (a : Half) : (s.hostRead w a).f = s.f := rfl
@[simp] theorem hostRead_pend (s : State) (w : Width) (a : Half) : (s.hostRead w a).pend = s.pend := rfl
@[simp] theorem hostRead_mem (s : State) (w : Width) (a : Half) : (s.hostRead w a).mem = s.mem := rfl
@[simp] theorem hostRead_host (s : State) (w : Width) (a : Half) : (s.hostRead w a).host = s.host := rfl
@[simp] theorem hostRead_resp (s : State) (w : Width) (a : Half) : (s.hostRead w a).resp = some (s.busRead w a) := rfl
@[simp] theorem hostRead_wait (s : State) (w : Width) (a : Half) : (s.hostRead w a).wait = s.wait := rfl
@[simp] theorem hostRead_hazard (s : State) (w : Width) (a : Half) : (s.hostRead w a).hazard = s.hazard := rfl
@[simp] theorem hostRead_draws (s : State) (w : Width) (a : Half) : (s.hostRead w a).draws = s.draws + 1 := rfl

@[simp] theorem resetInput_par (s : State) : s.resetInput.par = s.par := rfl
@[simp] theorem resetInput_status (s : State) : s.resetInput.status = Status.reset := rfl
@[simp] theorem resetInput_inLen (s : State) : s.resetInput.inLen = 0 := rfl
@[simp] theorem resetInput_outLen (s : State) : s.resetInput.outLen = 0 := rfl
@[simp] theorem resetInput_msgLen0 (s : State) : s.resetInput.msgLen0 = 0 := rfl
@[simp] theorem resetInput_msgLen1 (s : State) : s.resetInput.msgLen1 = 0 := rfl
@[simp] theorem resetInput_msgLen2 (s : State) : s.resetInput.msgLen2 = 0 := rfl
@[simp] theorem resetInput_crc (s : State) : s.resetInput.crc = 0 := rfl
@[simp] theorem resetInput_convIn (s : State) : s.resetInput.convIn = 0 := rfl
@[simp] theorem resetInput_convOut (s : State) : s.resetInput.convOut = 0 := rfl
@[simp] theorem resetInput_nameLen (s : State) : s.resetInput.nameLen = 0 := rfl
@[simp] theorem resetInput_name (s : State) : s.resetInput.name = Vector.replicate 8 0 := rfl
@[simp] theorem resetInput_f (s : State) : s.resetInput.f = Vector.replicate 121 0 := rfl
@[simp] theorem resetInput_pend (s : State) : s.resetInput.pend = 0 := rfl
@[simp] theorem resetInput_mem (s : State) : s.resetInput.mem = [] := rfl
@[simp] theorem resetInput_host (s : State) : s.resetInput.host = s.host := rfl
@[simp] theorem resetInput_resp (s : State) : s.resetInput.resp = none := rfl
@[simp] theorem resetInput_wait (s : State) : s.resetInput.wait = 0 := rfl
@[simp] theorem resetInput_hazard (s : State) : s.resetInput.hazard = false := rfl
@[simp] theorem resetInput_draws (s : State) : s.resetInput.draws = s.draws := rfl

@[simp] theorem pendNow_par (s : State) (w : Word) : (s.pendNow w).par = s.par := rfl
@[simp] theorem pendNow_status (s : State) (w : Word) : (s.pendNow w).status = Status.accepted := rfl
@[simp] theorem pendNow_inLen (s : State) (w : Word) : (s.pendNow w).inLen = s.inLen := rfl
@[simp] theorem pendNow_outLen (s : State) (w : Word) : (s.pendNow w).outLen = s.outLen := rfl
@[simp] theorem pendNow_msgLen0 (s : State) (w : Word) : (s.pendNow w).msgLen0 = s.msgLen0 := rfl
@[simp] theorem pendNow_msgLen1 (s : State) (w : Word) : (s.pendNow w).msgLen1 = s.msgLen1 := rfl
@[simp] theorem pendNow_msgLen2 (s : State) (w : Word) : (s.pendNow w).msgLen2 = s.msgLen2 := rfl
@[simp] theorem pendNow_crc (s : State) (w : Word) : (s.pendNow w).crc = s.crc := rfl
@[simp] theorem pendNow_convIn (s : State) (w : Word) : (s.pendNow w).convIn = s.convIn := rfl
@[simp] theorem pendNow_convOut (s : State) (w : Word) : (s.pendNow w).convOut = s.convOut := rfl
@[simp] theorem pendNow_nameLen (s : State) (w : Word) : (s.pendNow w).nameLen = s.nameLen := rfl
@[simp] theorem pendNow_name (s : State) (w : Word) : (s.pendNow w).name = s.name := rfl
@[simp] theorem pendNow_f (s : State) (w : Word) : (s.pendNow w).f = s.f := rfl
@[simp] theorem pendNow_pend (s : State) (w : Word) : (s.pendNow w).pend = w := rfl
@[simp] theorem pendNow_mem (s : State) (w : Word) : (s.pendNow w).mem = s.mem := rfl
@[simp] theorem pendNow_host (s : State) (w : Word) : (s.pendNow w).host = s.host := rfl
@[simp] theorem pendNow_resp (s : State) (w : Word) : (s.pendNow w).resp = s.resp := rfl
@[simp] theorem pendNow_wait (s : State) (w : Word) : (s.pendNow w).wait = 0 := rfl
@[simp] theorem pendNow_hazard (s : State) (w : Word) : (s.pendNow w).hazard = false := rfl
@[simp] theorem pendNow_draws (s : State) (w : Word) : (s.pendNow w).draws = s.draws := rfl

@[simp] theorem completed_busy (t : Status) : t.completed.busy = false := rfl
@[simp] theorem completed_done (t : Status) : t.completed.done = true := rfl
@[simp] theorem completed_err (t : Status) : t.completed.err = t.err := rfl
@[simp] theorem completed_ovr (t : Status) : t.completed.ovr = t.ovr := rfl
@[simp] theorem completed_ecode (t : Status) : t.completed.ecode = t.ecode := rfl
@[simp] theorem failed_busy (t : Status) (e : ErrorCode) : (t.failed e).busy = false := rfl
@[simp] theorem failed_done (t : Status) (e : ErrorCode) : (t.failed e).done = true := rfl
@[simp] theorem failed_err (t : Status) (e : ErrorCode) : (t.failed e).err = true := rfl
@[simp] theorem failed_ovr (t : Status) (e : ErrorCode) : (t.failed e).ovr = t.ovr := rfl
@[simp] theorem failed_ecode (t : Status) (e : ErrorCode) : (t.failed e).ecode = e.code := rfl
@[simp] theorem overrun_busy (t : Status) : t.overrun.busy = t.busy := rfl
@[simp] theorem overrun_ovr (t : Status) : t.overrun.ovr = true := rfl
@[simp] theorem accepted_busy : Status.accepted.busy = true := rfl

end Sys2Proof.Machine
end

