-- ==== Sys2Proof/Laws/Bus.lean ====
section
/-! SUPPORT. What the addresses of the block window select, and what a read gives while no command is pending. -/

namespace Sys2Proof.Machine

/-- The capacity bounds of checked parameters (00_scope.md R9, 20_memory.md R61). -/
theorem capacities (p : CheckedParams) :
    230 ≤ p.1.inCap ∧ p.1.inCap ≤ 4096 ∧ 265 ≤ p.1.outCap ∧ p.1.outCap ≤ 4096 := by
  have h := p.2
  simp only [Params.wf, Bool.and_eq_true, decide_eq_true_eq] at h
  exact ⟨h.1.1.1.1.2, h.1.1.1.2, h.1.1.2, h.1.2⟩

/-- The address of every register selects that register. -/
theorem busTarget_reg (p : Params) (r : RegName) : busTarget p .w32 r.addr = some (.reg r) := by
  cases r with
  | field i =>
    have := i.isLt
    simp only [RegName.addr, busTarget, BitVec.toNat_ofNat]
    rw [Nat.mod_eq_of_lt (by omega), if_pos (by omega), if_pos ⟨trivial, by omega⟩]
    simp only [registerAt]
    rw [dif_pos (by omega)]
    simp
  | _ => simp [RegName.addr, busTarget, registerAt, plainRegisterAt]

theorem busTarget_ibufByte (p : CheckedParams) (k : Nat) (h : k < p.1.inCap) :
    busTarget p.1 .w8 (BitVec.ofNat 16 (0x1000 + k)) = some (.ibuf k) := by
  have := capacities p
  simp only [busTarget, BitVec.toNat_ofNat]
  rw [Nat.mod_eq_of_lt (by omega), if_neg (by omega), if_pos (by omega)]
  simp [bufferIndex, h]

theorem busTarget_ibufWord (p : CheckedParams) (k : Nat) (h : 4 * k + 4 ≤ p.1.inCap) :
    busTarget p.1 .w32 (BitVec.ofNat 16 (0x1000 + 4 * k)) = some (.ibuf (4 * k)) := by
  have := capacities p
  simp only [busTarget, BitVec.toNat_ofNat]
  rw [Nat.mod_eq_of_lt (by omega), if_neg (by omega), if_pos (by omega)]
  simp [bufferIndex, h]

theorem busTarget_rom (p : Params) (k : Byte) :
    busTarget p .w32 (BitVec.ofNat 16 (0x3000 + 4 * k.toNat)) = some (.rom k) := by
  have := k.isLt
  simp only [busTarget, BitVec.toNat_ofNat]
  rw [Nat.mod_eq_of_lt (by omega), if_neg (by omega), if_neg (by omega), if_neg (by omega), if_pos (by omega),
    if_pos ⟨trivial, by omega⟩]
  simp

/-- No place is an operand or a result while no command is pending. -/
theorem inPlaces_idle {s : State} (h : s.status.busy = false) (col : Instr → List Place) (t : Target) :
    inPlaces t (s.pendingPlaces col) = false := by
  unfold State.pendingPlaces
  split
  · simp only [h]; unfold inPlaces; split <;> rfl
  · unfold inPlaces; split <;> rfl

/-- No command has STATUS, an operand register of the converter, a header register or IBUF among its results. -/
theorem inPlaces_results {s : State} {t : Target}
    (h : t.place = none ∨ t.place = some .inLen ∨ t.place = some .ibuf ∨ t.place = some .convIn) :
    inPlaces t (s.pendingPlaces Instr.results) = false := by
  unfold State.pendingPlaces inPlaces
  cases decodeCommand s.pend with
  | error e => rcases h with h | h | h | h <;> rw [h] <;> rfl
  | ok i => cases s.status.busy <;> cases i <;> rcases h with h | h | h | h <;> rw [h] <;> rfl

/-- While command i is pending, exactly its own column counts. -/
theorem inPlaces_pending {s : State} {i : Instr} {t : Target} {p : Place} (hb : s.status.busy = true)
    (hd : decodeCommand s.pend = .ok i) (ht : t.place = some p) (col : Instr → List Place) :
    inPlaces t (s.pendingPlaces col) = (col i).contains p := by
  simp [State.pendingPlaces, inPlaces, hd, hb, ht]

/-- An illegal pending word has no operand and no result. -/
theorem inPlaces_illegal {s : State} {e : IllegalWord} (hd : decodeCommand s.pend = .error e) (col : Instr → List Place)
    (t : Target) : inPlaces t (s.pendingPlaces col) = false := by
  simp only [State.pendingPlaces, hd]
  unfold inPlaces
  split <;> rfl

theorem busRead_idle {s : State} {w : Width} {a : Half} {t : Target} (h : s.status.busy = false)
    (ht : busTarget s.par.1 w a = some t) : s.busRead w a = .data (s.readTarget w t) := by
  simp [State.busRead, ht, inPlaces_idle h]

theorem busRead_current {s : State} {w : Width} {a : Half} {t : Target} (ht : busTarget s.par.1 w a = some t)
    (h : t.place = none ∨ t.place = some .inLen ∨ t.place = some .ibuf ∨ t.place = some .convIn) :
    s.busRead w a = .data (s.readTarget w t) := by
  simp [State.busRead, ht, inPlaces_results h]

end Sys2Proof.Machine
end

