-- ==== Sys2Proof/Laws/Memory.lean ====
section
/-! SUPPORT. The memory operations: reading back what was written, leaving everything else alone, and keeping the
canonical form. -/

namespace Sys2Proof.Machine

@[simp] theorem cellsAt_nil (a : Nat) : cellsAt a [] = [] := rfl
@[simp] theorem cellsAt_cons (a : Nat) (b : Byte) (bs : List Byte) : cellsAt a (b :: bs) = (a, b) :: cellsAt (a + 1) bs := rfl
@[simp] theorem read_nil (a : Nat) : Memory.read [] a = none := rfl

theorem read_append (m n : Memory) (a : Nat) : Memory.read (m ++ n) a = (Memory.read m a).or (Memory.read n a) := by
  induction m with
  | nil => simp
  | cons c m ih =>
    obtain ⟨k, b⟩ := c
    simp only [List.cons_append, Memory.read]
    split <;> simp_all

theorem read_cellsAt (a : Nat) (bs : List Byte) (x : Nat) :
    Memory.read (cellsAt a bs) x = if a ≤ x then bs[x - a]? else none := by
  induction bs generalizing a with
  | nil => simp
  | cons b bs ih =>
    simp only [cellsAt_cons, Memory.read, ih]
    by_cases h : a = x
    · subst h; simp
    · by_cases h' : a + 1 ≤ x
      · have e : x - a = (x - (a + 1)) + 1 := by omega
        simp [h, h', show a ≤ x by omega, e]
      · simp [h, h', show ¬ a ≤ x by omega]

theorem read_filter (m : Memory) (p : Nat → Bool) (a : Nat) :
    Memory.read (m.filter fun c => p c.1) a = if p a then Memory.read m a else none := by
  induction m with
  | nil => simp
  | cons c m ih =>
    obtain ⟨k, b⟩ := c
    by_cases hk : k = a
    · subst hk; by_cases hp : p k <;> simp_all [Memory.read]
    · by_cases hp : p k <;> simp_all [Memory.read]

/-- A read after a write: inside the written bytes it gives them, elsewhere what was there. -/
theorem read_writeBytes (m : Memory) (a : Nat) (bs : List Byte) (x : Nat) :
    (m.writeBytes a bs).read x = if a ≤ x ∧ x < a + bs.length then bs[x - a]? else m.read x := by
  unfold Memory.writeBytes
  rw [read_append, read_append, read_cellsAt, read_filter m (fun k => decide (k < a)),
    read_filter m (fun k => decide (a + bs.length ≤ k))]
  by_cases h1 : x < a
  · simp [h1, show ¬ a ≤ x by omega, show ¬ a + bs.length ≤ x by omega]
  · by_cases h2 : x < a + bs.length
    · simp [h1, h2, show a ≤ x by omega, show ¬ a + bs.length ≤ x by omega, show x - a < bs.length by omega]
    · simp [h1, h2, show a ≤ x by omega, show a + bs.length ≤ x by omega, show bs.length ≤ x - a by omega]

theorem read_writeBytes_inside (m : Memory) (a : Nat) (bs : List Byte) (k : Nat) (h : k < bs.length) :
    (m.writeBytes a bs).read (a + k) = some bs[k] := by
  simp [read_writeBytes, h]

theorem read_writeBytes_outside (m : Memory) (a : Nat) (bs : List Byte) (x : Nat) (h : x < a ∨ a + bs.length ≤ x) :
    (m.writeBytes a bs).read x = m.read x := by
  rw [read_writeBytes, if_neg (by omega)]

theorem mem_cellsAt {a : Nat} {bs : List Byte} {c : Host.Cell} (h : c ∈ cellsAt a bs) :
    a ≤ c.1 ∧ c.1 < a + bs.length := by
  induction bs generalizing a with
  | nil => simp at h
  | cons b bs ih =>
    rw [cellsAt_cons, List.mem_cons] at h
    rcases h with h | h
    · subst h; simp
    · have := ih h; simp only [List.length_cons]; omega

theorem cellsAt_wf (a : Nat) (bs : List Byte) : Memory.wf (cellsAt a bs) := by
  induction bs generalizing a with
  | nil => exact List.Pairwise.nil
  | cons b bs ih =>
    rw [cellsAt_cons]
    exact List.pairwise_cons.2 ⟨fun c hc => by have := mem_cellsAt hc; simp only; omega, ih (a + 1)⟩

/-- A write keeps the canonical form. -/
theorem writeBytes_wf {m : Memory} (h : m.wf) (a : Nat) (bs : List Byte) : (m.writeBytes a bs).wf := by
  unfold Memory.writeBytes
  refine List.pairwise_append.2 ⟨List.pairwise_append.2 ⟨h.filter _, cellsAt_wf a bs, ?_⟩, h.filter _, ?_⟩
  · intro c hc d hd
    have h1 : c.1 < a := by simpa using (List.mem_filter.1 hc).2
    have h2 := mem_cellsAt hd
    omega
  · intro c hc d hd
    have hd' : a + bs.length ≤ d.1 := by simpa using (List.mem_filter.1 hd).2
    rcases List.mem_append.1 hc with hc | hc
    · have h1 : c.1 < a := by simpa using (List.mem_filter.1 hc).2
      omega
    · have h2 := mem_cellsAt hc
      omega

/-- A write adds only the addresses it writes. -/
theorem mem_writeBytes {m : Memory} {a : Nat} {bs : List Byte} {c : Host.Cell} (h : c ∈ m.writeBytes a bs) :
    c ∈ m ∨ (a ≤ c.1 ∧ c.1 < a + bs.length) := by
  unfold Memory.writeBytes at h
  rcases List.mem_append.1 h with h | h
  · rcases List.mem_append.1 h with h | h
    · exact .inl (List.mem_filter.1 h).1
    · exact .inr (mem_cellsAt h)
  · exact .inl (List.mem_filter.1 h).1

/-- readBytes gives n bytes exactly when all of them are written. -/
theorem readBytes_eq_some {m : Memory} {a n : Nat} {bs : List Byte} :
    m.readBytes a n = some bs ↔ bs.length = n ∧ ∀ k (h : k < bs.length), m.read (a + k) = some bs[k] := by
  induction n generalizing a bs with
  | zero =>
    simp only [Memory.readBytes, Option.some.injEq]
    constructor
    · rintro rfl; simp
    · rintro ⟨h, -⟩; exact (List.length_eq_zero_iff.1 h).symm
  | succ n ih =>
    cases bs with
    | nil =>
      constructor
      · intro h; simp only [Memory.readBytes] at h; split at h <;> simp at h
      · rintro ⟨h, -⟩; simp at h
    | cons b bs =>
      constructor
      · intro h
        simp only [Memory.readBytes] at h
        split at h
        · rename_i b' bs' hb hbs
          simp only [Option.some.injEq, List.cons.injEq] at h
          obtain ⟨rfl, rfl⟩ := h
          obtain ⟨hl, hr⟩ := ih.1 hbs
          refine ⟨by simp [hl], fun k hk => ?_⟩
          cases k with
          | zero => simpa using hb
          | succ k => have := hr k (by simpa using hk); simpa [Nat.add_assoc, Nat.add_comm 1 k] using this
        · simp at h
      · rintro ⟨hl, hr⟩
        have h0 : m.read a = some b := hr 0 (by simp)
        have hs : m.readBytes (a + 1) n = some bs := ih.2 ⟨by simpa using hl, fun k hk => by
          have := hr (k + 1) (by simpa using hk)
          simpa [Nat.add_assoc, Nat.add_comm 1 k] using this⟩
        simp [Memory.readBytes, h0, hs]

theorem readBytes_eq_none {m : Memory} {a n : Nat} :
    m.readBytes a n = none ↔ ∃ k, k < n ∧ m.read (a + k) = none := by
  induction n generalizing a with
  | zero => simp [Memory.readBytes]
  | succ n ih =>
    constructor
    · intro h
      cases h0 : m.read a with
      | none => exact ⟨0, by omega, by simpa using h0⟩
      | some b =>
        cases h1 : m.readBytes (a + 1) n with
        | none =>
          obtain ⟨k, hk, hr⟩ := ih.1 h1
          exact ⟨k + 1, by omega, by rw [← hr]; congr 1; omega⟩
        | some bs => simp [Memory.readBytes, h0, h1] at h
    · rintro ⟨k, hk, hr⟩
      cases k with
      | zero => simp only [Nat.add_zero] at hr; simp [Memory.readBytes, hr]
      | succ k =>
        have h1 : m.readBytes (a + 1) n = none := ih.2 ⟨k, by omega, by rw [← hr]; congr 1; omega⟩
        simp [Memory.readBytes, h1]

/-- readBytes looks at nothing but the bytes it reads. -/
theorem readBytes_congr {m n : Memory} {a k : Nat} (h : ∀ j, j < k → m.read (a + j) = n.read (a + j)) :
    m.readBytes a k = n.readBytes a k := by
  induction k generalizing a with
  | zero => rfl
  | succ k ih =>
    have h0 : m.read a = n.read a := by simpa using h 0 (by omega)
    have h1 : m.readBytes (a + 1) k = n.readBytes (a + 1) k := ih fun j hj => by
      have := h (j + 1) (by omega)
      simpa [Nat.add_assoc, Nat.add_comm 1 j] using this
    simp [Memory.readBytes, h0, h1]

end Sys2Proof.Machine
end

