-- ==== Sys2Proof/Laws/Operands.lean ====
section
/-! SUPPORT. What the shared operand checks and the end of a command can do, said once. -/

namespace Sys2Proof.Machine

theorem hasInput_iff (s : State) (b : List Byte) :
    HasInput s b ↔ s.inLen.toNat ≤ s.inCap ∧ s.readIbuf s.inLen.toNat = some b := by
  unfold State.readIbuf
  rw [readBytes_eq_some]
  exact ⟨fun h => ⟨h.inRange, h.length, h.bytes⟩, fun h => ⟨h.2.1, h.1, h.2.2⟩⟩

theorem withInput_tooLong (s : State) (k : List Byte → Result) (h : s.inCap < s.inLen.toNat) :
    withInput s k = .next (s.raiseError .lengthRange) := by
  simp [withInput, h]

theorem withInput_hasInput {s : State} {b : List Byte} (k : List Byte → Result) (h : HasInput s b) :
    withInput s k = k b := by
  obtain ⟨h1, h2⟩ := (hasInput_iff s b).1 h
  simp [withInput, Nat.not_lt.2 h1, h2]

theorem withInput_unwritten (s : State) (k : List Byte → Result) (h : s.inLen.toNat ≤ s.inCap)
    (hb : s.readIbuf s.inLen.toNat = none) : withInput s k = .fault .unwrittenInput := by
  simp [withInput, Nat.not_lt.2 h, hb]

/-- Everything withInput can do. -/
theorem withInput_cases (s : State) (k : List Byte → Result) :
    (s.inCap < s.inLen.toNat ∧ withInput s k = .next (s.raiseError .lengthRange)) ∨
    (s.inLen.toNat ≤ s.inCap ∧ s.readIbuf s.inLen.toNat = none ∧ withInput s k = .fault .unwrittenInput) ∨
    (∃ b, HasInput s b ∧ withInput s k = k b) := by
  by_cases h : s.inCap < s.inLen.toNat
  · exact .inl ⟨h, withInput_tooLong s k h⟩
  · have h' := Nat.not_lt.1 h
    cases hb : s.readIbuf s.inLen.toNat with
    | none => exact .inr (.inl ⟨h', rfl, withInput_unwritten s k h' hb⟩)
    | some b =>
      have hi : HasInput s b := (hasInput_iff s b).2 ⟨h', hb⟩
      exact .inr (.inr ⟨b, hi, withInput_hasInput k hi⟩)

@[simp] theorem orRaise_error {α : Type} (s : State) (e : ErrorCode) (k : α → Result) :
    orRaise s (.error e) k = .next (s.raiseError e) := rfl

@[simp] theorem orRaise_ok {α : Type} (s : State) (a : α) (k : α → Result) : orRaise s (.ok a) k = k a := rfl

theorem finishWithBytes_fits (s : State) (bs : List Byte) (h : bs.length ≤ s.outCap) :
    finishWithBytes s bs = .next (s.storeResult bs).complete := by
  simp [finishWithBytes, Nat.not_lt.2 h]

theorem finishWithBytes_tooLong (s : State) (bs : List Byte) (h : s.outCap < bs.length) :
    finishWithBytes s bs = .next (s.raiseError .bufferOverflow) := by
  simp [finishWithBytes, h]

theorem unpack78_error {b : List Byte} {e : ErrorCode} (h : unpack78 b = .error e) : e = .malformedBuffer := by
  simp only [unpack78] at h
  split at h
  · simpa using h.symm
  · split at h
    · simpa using h.symm
    · split at h
      · simpa using h.symm
      · simp at h

theorem pack87_error {b : List Byte} {e : ErrorCode} (h : pack87 b = .error e) : e = .malformedBuffer := by
  unfold pack87 at h
  split at h
  · simpa using h.symm
  · simp at h

theorem decodePatch_error {L : Layout} {u : List Byte} {e : ErrorCode} (h : decodePatch L u = .error e) :
    e = .malformedBuffer := by
  unfold decodePatch at h
  split at h
  · simpa using h.symm
  · split at h
    · simpa using h.symm
    · split at h
      · simpa using h.symm
      · simp at h

theorem decodeInbound_error {L : Layout} {b : List Byte} {e : ErrorCode} (h : decodeInbound L b = .error e) :
    e = .malformedBuffer := by
  unfold decodeInbound at h
  split at h
  · simpa using h.symm
  · split at h
    · rename_i e' he
      have := unpack78_error he
      simp_all
    · exact decodePatch_error h

end Sys2Proof.Machine
end

