-- ==== Sys2Proof/Laws/Exec.lean ====
section
/-! SUPPORT. Everything exec can do when it answers a next state, said once for all commands. -/

namespace Sys2Proof.Machine

/-- The state u is s with the results of a successful command i written, whatever their values. -/
def WroteResults (i : Instr) (s u : State) : Prop :=
  match i with
  | .unpack78 => ∃ bs : List Byte, bs.length ≤ s.outCap ∧ u = s.storeResult bs
  | .pack87 => ∃ bs : List Byte, bs.length ≤ s.outCap ∧ u = s.storeResult bs
  | .crc32 => ∃ c : Word, u = { s with crc := c }
  | .toSigned => ∃ c : Word, u = { s with convOut := c }
  | .toUnsigned => ∃ c : Word, u = { s with convOut := c }
  | .decode => ∃ p v, decodePatch s.layout v = .ok p ∧ u = s.setPatch p
  | .encodePayload => ∃ bs : List Byte, bs.length ≤ s.outCap ∧ u = s.storeResult bs
  | .frame _ => ∃ bs : List Byte, bs.length ≤ s.outCap ∧ u = s.storeResult bs
  | .encodeBurst => ∃ b : Burst, b.m1.length + b.m2.length + b.m3.length ≤ s.outCap ∧ u = s.storeBurst b
  | .decodeInbound => ∃ p v, decodePatch s.layout v = .ok p ∧ u = s.setPatch p

theorem finishWithBytes_next {s t : State} {bs : List Byte} (h : finishWithBytes s bs = .next t) :
    t = s.raiseError .bufferOverflow ∨ (bs.length ≤ s.outCap ∧ t = (s.storeResult bs).complete) := by
  by_cases hb : s.outCap < bs.length
  · rw [finishWithBytes_tooLong s bs hb] at h
    exact .inl (Host.Outcome.next.inj h).symm
  · rw [finishWithBytes_fits s bs (Nat.not_lt.1 hb)] at h
    exact .inr ⟨Nat.not_lt.1 hb, (Host.Outcome.next.inj h).symm⟩

theorem withInput_next {s t : State} {k : List Byte → Result} (h : withInput s k = .next t) :
    t = s.raiseError .lengthRange ∨ ∃ b, HasInput s b ∧ k b = .next t := by
  rcases withInput_cases s k with ⟨_, e⟩ | ⟨_, _, e⟩ | ⟨b, hb, e⟩
  · rw [e] at h; exact .inl (Host.Outcome.next.inj h).symm
  · rw [e] at h; cases h
  · exact .inr ⟨b, hb, e ▸ h⟩

theorem orRaise_next {α : Type} {s t : State} {r : Except ErrorCode α} {k : α → Result} (h : orRaise s r k = .next t) :
    (∃ e, r = .error e ∧ t = s.raiseError e) ∨ ∃ a, r = .ok a ∧ k a = .next t := by
  cases r with
  | error e => exact .inl ⟨e, rfl, (Host.Outcome.next.inj h).symm⟩
  | ok a => exact .inr ⟨a, rfl, h⟩

theorem decodeInbound_ok {L : Layout} {b : List Byte} {p : DecodedPatch} (h : decodeInbound L b = .ok p) :
    20 < b.length ∧ ∃ u, unpack78 b = .ok u ∧ decodePatch L u = .ok p := by
  unfold decodeInbound at h
  split at h
  · simp at h
  · split at h
    · simp at h
    · rename_i hl u hu
      exact ⟨by omega, u, hu, h⟩

/-- A command that answers a next state raised one error, or wrote its results and completed. -/
theorem exec_next {i : Instr} {s t : State} (h : exec i s = .next t) :
    (∃ e : ErrorCode, e ≠ .illegalCommand ∧ e ≠ .unrecognizedFormat ∧ t = s.raiseError e) ∨
    ∃ u, WroteResults i s u ∧ t = u.complete := by
  have bytes : ∀ {bs : List Byte}, finishWithBytes s bs = .next t →
      (∃ e : ErrorCode, e ≠ .illegalCommand ∧ e ≠ .unrecognizedFormat ∧ t = s.raiseError e) ∨
      ∃ u, (∃ bs : List Byte, bs.length ≤ s.outCap ∧ u = s.storeResult bs) ∧ t = u.complete := by
    intro bs hb
    rcases finishWithBytes_next hb with rfl | ⟨hl, rfl⟩
    · exact .inl ⟨_, by decide, by decide, rfl⟩
    · exact .inr ⟨_, ⟨bs, hl, rfl⟩, rfl⟩
  have patch : ∀ {p : DecodedPatch} {v : List Byte}, decodePatch s.layout v = .ok p →
      (Host.Outcome.next (s.setPatch p).complete : Result) = .next t →
      (∃ e : ErrorCode, e ≠ .illegalCommand ∧ e ≠ .unrecognizedFormat ∧ t = s.raiseError e) ∨
      ∃ u, (∃ p v, decodePatch s.layout v = .ok p ∧ u = s.setPatch p) ∧ t = u.complete := by
    intro p v hp ht
    exact .inr ⟨_, ⟨p, v, hp, rfl⟩, (Host.Outcome.next.inj ht).symm⟩
  cases i with
  | unpack78 =>
    rcases withInput_next h with rfl | ⟨b, _, h⟩
    · exact .inl ⟨_, by decide, by decide, rfl⟩
    · rcases orRaise_next h with ⟨e, he, rfl⟩ | ⟨r, _, h⟩
      · obtain rfl := unpack78_error he
        exact .inl ⟨_, by decide, by decide, rfl⟩
      · exact bytes h
  | pack87 =>
    rcases withInput_next h with rfl | ⟨b, _, h⟩
    · exact .inl ⟨_, by decide, by decide, rfl⟩
    · rcases orRaise_next h with ⟨e, he, rfl⟩ | ⟨r, _, h⟩
      · obtain rfl := pack87_error he
        exact .inl ⟨_, by decide, by decide, rfl⟩
      · exact bytes h
  | crc32 =>
    rcases withInput_next h with rfl | ⟨b, _, h⟩
    · exact .inl ⟨_, by decide, by decide, rfl⟩
    · exact .inr ⟨_, ⟨_, rfl⟩, (Host.Outcome.next.inj h).symm⟩
  | toSigned => exact .inr ⟨_, ⟨_, rfl⟩, (Host.Outcome.next.inj h).symm⟩
  | toUnsigned => exact .inr ⟨_, ⟨_, rfl⟩, (Host.Outcome.next.inj h).symm⟩
  | decode =>
    rcases withInput_next h with rfl | ⟨b, _, h⟩
    · exact .inl ⟨_, by decide, by decide, rfl⟩
    · rcases orRaise_next h with ⟨e, he, rfl⟩ | ⟨p, hp, h⟩
      · obtain rfl := decodePatch_error he
        exact .inl ⟨_, by decide, by decide, rfl⟩
      · exact patch hp h
  | encodePayload => exact bytes h
  | frame seq =>
    rcases withInput_next h with rfl | ⟨b, _, h⟩
    · exact .inl ⟨_, by decide, by decide, rfl⟩
    · exact bytes h
  | encodeBurst =>
    change execEncodeBurst s = .next t at h
    unfold execEncodeBurst at h
    split at h
    · exact .inl ⟨_, by decide, by decide, (Host.Outcome.next.inj h).symm⟩
    · split at h
      · exact .inl ⟨_, by decide, by decide, (Host.Outcome.next.inj h).symm⟩
      · rename_i _ hl
        exact .inr ⟨_, ⟨s.burst, Nat.not_lt.1 hl, rfl⟩, (Host.Outcome.next.inj h).symm⟩
  | decodeInbound =>
    rcases withInput_next h with rfl | ⟨b, _, h⟩
    · exact .inl ⟨_, by decide, by decide, rfl⟩
    · rcases orRaise_next h with ⟨e, he, rfl⟩ | ⟨p, hp, h⟩
      · obtain rfl := decodeInbound_error he
        exact .inl ⟨_, by decide, by decide, rfl⟩
      · obtain ⟨_, u, _, hu⟩ := decodeInbound_ok hp
        exact patch hu h

end Sys2Proof.Machine
end

