-- ==== Sys2Proof/Laws/PerInstr.lean ====
section
/-! SUPPORT. The per-command family OpcodeField: a command's word carries its opcode in [7:0] and, but for FRAME's SEQ,
zeros above it (30_encoding.md R80, R83). -/

namespace Sys2Proof.Laws.OpcodeField

/-- OP and the reserved bits of the encoded word. -/
def Statement (i : Instr) : Prop :=
  opField (encodeCommand i) = opcodeOf i ∧ c1ReservedClear (encodeCommand i) = true ∧
  (opcodeOf i ≠ 0x08 → c0ReservedClear (encodeCommand i) = true)

theorem unpack78 : Statement .unpack78 := ⟨rfl, rfl, fun _ => rfl⟩
theorem pack87 : Statement .pack87 := ⟨rfl, rfl, fun _ => rfl⟩
theorem crc32 : Statement .crc32 := ⟨rfl, rfl, fun _ => rfl⟩
theorem toSigned : Statement .toSigned := ⟨rfl, rfl, fun _ => rfl⟩
theorem toUnsigned : Statement .toUnsigned := ⟨rfl, rfl, fun _ => rfl⟩
theorem decode : Statement .decode := ⟨rfl, rfl, fun _ => rfl⟩
theorem encodePayload : Statement .encodePayload := ⟨rfl, rfl, fun _ => rfl⟩
theorem frame (seq : Byte) : Statement (.frame seq) := by
  refine ⟨?_, ?_, fun h => absurd rfl h⟩
  · revert seq; decide +kernel
  · revert seq; decide +kernel
theorem encodeBurst : Statement .encodeBurst := ⟨rfl, rfl, fun _ => rfl⟩
theorem decodeInbound : Statement .decodeInbound := ⟨rfl, rfl, fun _ => rfl⟩

end Sys2Proof.Laws.OpcodeField
end

