-- ==== Sys2Proof/Laws/Step.lean ====
section
/-! SUPPORT. The step, the engine's step and the bus cycle, case by case, and what a host write can change. -/

namespace Sys2Proof.Machine

theorem step_engine {s : State} (hb : s.status.busy = true) (hw : s.wait = 0) : step s = engineStep s := by
  simp [step, hb, hw]

theorem step_busCycle {s : State} (h : ¬ (s.status.busy = true ∧ s.wait = 0)) : step s = .next s.busCycle := by
  simp [step, h]

theorem engineStep_illegal {s : State} {e : IllegalWord} (h : decodeCommand s.pend = .error e) :
    engineStep s = .next (s.raiseError .illegalCommand) := by
  simp [engineStep, h]

theorem engineStep_command {s : State} {i : Instr} (h : decodeCommand s.pend = .ok i) :
    engineStep s = settleHazard i s (exec i s) := by
  simp [engineStep, h]

theorem settleHazard_clear {i : Instr} {s : State} (h : s.hazard = false) (o : Result) : settleHazard i s o = o := by
  cases o <;> simp [settleHazard, h]

theorem settleHazard_set {i : Instr} {s t : State} (h : s.hazard = true) :
    settleHazard i s (.next t) = .next (s.completeArbitrarily i) := by
  simp [settleHazard, h]

theorem busCycle_nil {s : State} (h : s.host = []) : s.busCycle = { s with wait := s.wait - 1 } := by
  simp [State.busCycle, h]

theorem busCycle_cons {s : State} {op : BusOp} {rest : List BusOp} (h : s.host = op :: rest) :
    s.busCycle = { s with wait := s.wait - 1, host := rest }.hostEvent op := by
  simp [State.busCycle, h]

theorem hostWrite_busError {s : State} {w : Width} {a : Half} (h : busTarget s.par.1 w a = none) (d : Word) :
    s.hostWrite w a d = { s with resp := some .busError } := by
  simp [State.hostWrite, h]

theorem hostWrite_target {s : State} {w : Width} {a : Half} {t : Target} (h : busTarget s.par.1 w a = some t) (d : Word) :
    s.hostWrite w a d = (s.writeTarget w t d).acknowledge (inPlaces t (s.pendingPlaces Instr.operands)) := by
  simp [State.hostWrite, h]

/-- Everything a host write to a target can change. -/
theorem writeTarget_cases (s : State) (w : Width) (t : Target) (d : Word) :
    s.writeTarget w t d = s ∨
    (t = .reg .cmd ∧ s.writeTarget w t d = s.cmdWrite d) ∨
    (t = .reg .inLen ∧ s.writeTarget w t d = { s with inLen := d.setWidth 16 }) ∨
    (t = .reg .convIn ∧ s.writeTarget w t d = { s with convIn := d }) ∨
    (t = .reg .nameLen ∧ s.writeTarget w t d = { s with nameLen := d.setWidth 4 }) ∨
    (t = .reg .nameW0 ∧ s.writeTarget w t d = s.writeNameW0 d) ∨
    (t = .reg .nameW1 ∧ s.writeTarget w t d = s.writeNameW1 d) ∨
    (∃ i, t = .reg (.field i) ∧ s.writeTarget w t d = s.writeField i d.toInt) ∨
    (∃ i, t = .ibuf i ∧
      s.writeTarget w t d = { s with mem := s.mem.writeBytes (ibufBase + i) (storedBytes w d) }) := by
  cases t with
  | reg r => cases r <;> simp [State.writeTarget, State.writeReg]
  | ibuf i => simp [State.writeTarget]
  | obuf i => exact .inl rfl
  | rom k => exact .inl rfl

/-- An IBUF target of an access that gets no bus error lies inside IBUF with all its bytes. -/
theorem busTarget_ibuf {p : Params} {w : Width} {a : Half} {i : Nat} (h : busTarget p w a = some (.ibuf i)) (d : Word) :
    a.toNat = 0x1000 + i ∧ i + (storedBytes w d).length ≤ p.inCap := by
  simp only [busTarget] at h
  split at h
  · split at h
    · simp at h
    · simp at h
  · split at h
    · cases w with
      | w8 =>
        simp only [bufferIndex, Option.map_eq_some_iff] at h
        obtain ⟨j, hj, hj'⟩ := h
        split at hj
        · simp only [Option.some.injEq, Target.ibuf.injEq] at hj hj'
          simp only [storedBytes, List.length_cons, List.length_nil]
          omega
        · simp at hj
      | w16 => simp [bufferIndex] at h
      | w32 =>
        simp only [bufferIndex, Option.map_eq_some_iff] at h
        obtain ⟨j, hj, hj'⟩ := h
        split at hj
        · simp only [Option.some.injEq, Target.ibuf.injEq] at hj hj'
          simp only [storedBytes, le32_length]
          omega
        · simp at hj
    · split at h
      · simp at h
      · split at h
        · split at h <;> simp at h
        · simp at h

end Sys2Proof.Machine
end

