-- ==== Sys2Proof/Tests/Slice0.lean ====
section
/-! SUPPORT. The model's own tests: the well-formedness smoke tests, the command words written out from 30_encoding.md,
vectors of 95_test_vectors.md (one step each), and for every statement with hypotheses a state that meets them. -/

namespace Sys2Proof.Tests

open Sys2Proof Sys2Proof.Machine

-- The kernel's evaluations one after another: in parallel their stacks can exceed the check's memory limit.
set_option Elab.async false

/-! ## The test instance (95_test_vectors.md section 1) -/

def testParamsRaw : Params where
  header := #v[0xF0, 0x11, 0x22, 0x33, 0x44, 0x55, 0x66, 0x77]
  layout := exampleLayout
  inCap := 1024
  outCap := 1280

theorem smoke_params_accepted : testParamsRaw.wf = true := by
  simp only [Params.wf, testParamsRaw, exampleLayout_wf]
  decide

def testParams : CheckedParams := ⟨testParamsRaw, smoke_params_accepted⟩

theorem smallOut_accepted : ({ testParamsRaw with inCap := 4096, outCap := 265 } : Params).wf = true := by
  simp only [Params.wf, testParamsRaw, exampleLayout_wf]
  decide

/-- Header TH, layout EL, the default capacities; everything else as after reset. -/
def base : State := { State.reset with par := testParams }

/-- The smallest OUT_CAP that 00_scope.md R9 allows, with the largest IN_CAP. -/
def smallOut : State :=
  { State.reset with par := ⟨{ testParamsRaw with inCap := 4096, outCap := 265 }, smallOut_accepted⟩ }

/-- A state whose IBUF[0..IN_LEN) holds these bytes. -/
def State.input (s : State) (bs : List Byte) : State :=
  { s with inLen := BitVec.ofNat 16 bs.length, mem := cellsAt ibufBase bs }

/-- TH and SEQ = 1, the 9-byte prefix of the transcoder vectors. -/
def prefix9 : List Byte := [0xF0, 0x11, 0x22, 0x33, 0x44, 0x55, 0x66, 0x77, 0x01]

def isNext (r : Result) : Bool :=
  match r with
  | .next _ => true
  | .fault _ => false
  | .refused _ => false

/-- The next state, or `base` where there is none. -/
def resultOf (r : Result) : State :=
  match r with
  | .next t => t
  | .fault _ => base
  | .refused _ => base

theorem next_resultOf {r : Result} (h : isNext r = true) : r = .next (resultOf r) := by
  cases r <;> simp_all [isNext, resultOf]

/-- OBUF[0..OUT_LEN). -/
def obufOf (t : State) : Option (List Byte) := t.mem.readBytes obufBase t.outLen.toNat

theorem hasInput_input (s : State) (bs : List Byte) (h : bs.length ≤ s.inCap) : HasInput (State.input s bs) bs := by
  have hc := capacities s.par
  have hl : (BitVec.ofNat 16 bs.length).toNat = bs.length := by
    have : s.inCap = s.par.1.inCap := rfl
    rw [BitVec.toNat_ofNat, Nat.mod_eq_of_lt (by omega)]
  refine ⟨hl.symm, by rw [State.input]; simp only [hl]; exact h, fun k hk => ?_⟩
  simp [State.input, read_cellsAt, hk]

/-! ## Well-formedness: an ill-formed term for each check, refused -/

theorem smoke_header_refused :
    ({ testParamsRaw with header := #v[0xF1, 0x11, 0x22, 0x33, 0x44, 0x55, 0x66, 0x77] } : Params).wf = false := by
  decide +kernel
theorem smoke_inCap_low_refused : ({ testParamsRaw with inCap := 229 } : Params).wf = false := by decide +kernel
theorem smoke_inCap_high_refused : ({ testParamsRaw with inCap := 4097 } : Params).wf = false := by decide +kernel
theorem smoke_outCap_low_refused : ({ testParamsRaw with outCap := 264 } : Params).wf = false := by decide +kernel
theorem smoke_outCap_high_refused : ({ testParamsRaw with outCap := 4097 } : Params).wf = false := by decide +kernel

/-- EL with MIXER_LEVEL moved into the padding (R166 condition 1). -/
theorem smoke_layout_outside_refused :
    ({ exampleLayout with off := exampleLayout.off.set 0 0x85 } : Layout).wf = false := by decide +kernel
/-- EL with OP1_RCURVE moved off OP1_LCURVE's byte (R166 condition 3). -/
theorem smoke_layout_curves_refused :
    ({ exampleLayout with off := exampleLayout.off.set 26 0x04 } : Layout).wf = false := by decide +kernel
/-- EL with PITCH_ALEVEL on MIXER_LEVEL's byte (R166 condition 4). -/
theorem smoke_layout_overlap_refused :
    ({ exampleLayout with off := exampleLayout.off.set 1 0x04 } : Layout).wf = false := by decide +kernel
/-- EL with both bytes of OP1_FEEDBACK at one offset (R166 condition 4). -/
theorem smoke_layout_feedback_refused :
    ({ exampleLayout with hi := exampleLayout.hi.set 0 0x00 } : Layout).wf = false := by decide +kernel

theorem smoke_wrb_refused : (Stmt.wrb 1023 [0, 0]).wf testParamsRaw = false := by decide
theorem smoke_rdb_refused : (Stmt.rdb 1280).wf testParamsRaw = false := by decide
theorem smoke_copy_order_refused : (Stmt.copy 2 1 0).wf testParamsRaw = false := by decide
theorem smoke_copy_source_refused : (Stmt.copy 1279 1281 0).wf testParamsRaw = false := by decide
theorem smoke_copy_target_refused : (Stmt.copy 0 2 1023).wf testParamsRaw = false := by decide
theorem smoke_loadin_refused : (Stmt.loadin (List.replicate 1025 0)).wf testParamsRaw = false := by decide +kernel
theorem smoke_setname_refused : (Stmt.setname (List.replicate 9 0x41)).wf testParamsRaw = false := by decide
theorem smoke_statements_accepted :
    (Stmt.wrb 1022 [0, 0]).wf testParamsRaw = true ∧ (Stmt.copy 20 245 0).wf testParamsRaw = true ∧
    (Stmt.setname [0x49, 0x4E, 0x49, 0x54]).wf testParamsRaw = true := by decide

/-! ## Command words from the formats of 30_encoding.md R80 and the opcode map of R83, bit by bit -/

theorem test_decode_unpack78 : decodeCommand 0b00000000000000000000000000000001#32 = .ok .unpack78 := by rfl
theorem test_decode_pack87 : decodeCommand 0b00000000000000000000000000000010#32 = .ok .pack87 := by rfl
theorem test_decode_crc32 : decodeCommand 0b00000000000000000000000000000011#32 = .ok .crc32 := by rfl
theorem test_decode_toSigned : decodeCommand 0b00000000000000000000000000000100#32 = .ok .toSigned := by rfl
theorem test_decode_toUnsigned : decodeCommand 0b00000000000000000000000000000101#32 = .ok .toUnsigned := by rfl
theorem test_decode_decode : decodeCommand 0b00000000000000000000000000000110#32 = .ok .decode := by rfl
theorem test_decode_encodePayload : decodeCommand 0b00000000000000000000000000000111#32 = .ok .encodePayload := by rfl
theorem test_decode_frame : decodeCommand 0b00000000000000000111111000001000#32 = .ok (.frame 0x7E) := by rfl
theorem test_decode_encodeBurst : decodeCommand 0b00000000000000000000000000001001#32 = .ok .encodeBurst := by rfl
theorem test_decode_decodeInbound : decodeCommand 0b00000000000000000000000000001010#32 = .ok .decodeInbound := by rfl

/-- Reserved opcodes and reserved bits are rejected by name (R84; 95_test_vectors.md section 8). -/
theorem test_illegal_words :
    decodeCommand 0x00000000 = .error (.reservedOpcode 0x00) ∧ decodeCommand 0x0000000B = .error (.reservedOpcode 0x0B) ∧
    decodeCommand 0x000000FF = .error (.reservedOpcode 0xFF) ∧ decodeCommand 0x00000101 = .error (.reservedBits 0x01) ∧
    decodeCommand 0x80000003 = .error (.reservedBits 0x03) ∧ decodeCommand 0x00010008 = .error (.reservedBits 0x08) := by
  refine ⟨rfl, rfl, rfl, rfl, rfl, rfl⟩

/-- The table's numbering of bits: a number that is no 32-bit word is no command (R85). -/
theorem test_table_words :
    decodeTableWord 32 0x0000FF08 = some (.frame 0xFF) ∧ decodeTableWord 8 0x0A = some .decodeInbound ∧
    decodeTableWord 32 0x10008 = none ∧ decodeTableWord 40 0x100000001 = none := by
  refine ⟨rfl, rfl, rfl, rfl⟩

/-- Every command runs as the first one after reset. -/
theorem test_every_command_runs_from_reset :
    ([0x01, 0x02, 0x03, 0x04, 0x05, 0x06, 0x07, 0x108, 0x09, 0x0A].all fun w =>
      isNext (step (State.reset.withFetchWord 32 w))) = true := by decide +kernel

/-! ## One step per vector of 95_test_vectors.md -/

def run (i : Instr) (s : State) : State := resultOf (step (s.pendNow (encodeCommand i)))

/-- V-UP: two groups, the last one short, and the stripped terminator. -/
theorem test_unpack78 :
    obufOf (run .unpack78 (State.input base (prefix9 ++ [0x40, 0, 0, 0, 0, 0, 0, 0, 0x00, 0x12, 0xF7]))) =
      some [0x80, 0, 0, 0, 0, 0, 0, 0x12] := by decide +kernel
/-- V-UP: a lone mask is MALFORMED_BUFFER. -/
theorem test_unpack78_lone_mask :
    (run .unpack78 (State.input base (prefix9 ++ [0x00]))).status.word = 0x00000206 := by decide +kernel

/-- V-PK: `7F 80 01 FE 55 AA 00`. -/
theorem test_pack87 :
    obufOf (run .pack87 (State.input base (prefix9 ++ [0x7F, 0x80, 0x01, 0xFE, 0x55, 0xAA, 0x00]))) =
      some (prefix9 ++ [0x2A, 0x7F, 0x00, 0x01, 0x7E, 0x55, 0x2A, 0x00]) := by decide +kernel
/-- V-PK: a short last chunk of 1. -/
theorem test_pack87_short_chunk :
    obufOf (run .pack87 (State.input base (prefix9 ++ List.replicate 8 0x80))) =
      some (prefix9 ++ [0x7F, 0, 0, 0, 0, 0, 0, 0, 0x40, 0x00]) := by decide +kernel

/-- Section 4: "123456789". -/
theorem test_crc32 :
    (run .crc32 (State.input base [0x31, 0x32, 0x33, 0x34, 0x35, 0x36, 0x37, 0x38, 0x39])).crc = 0xCBF43926 := by
  decide +kernel
/-- Section 4: IN_LEN = 1025 is LENGTH_RANGE. -/
theorem test_crc32_lengthRange :
    (run .crc32 { base with inLen := 0x0401 }).status.word = 0x00000506 := by decide +kernel

/-- Section 5: bits [31:8] are ignored and bit 7 extends. -/
theorem test_toSigned : (run .toSigned { base with convIn := 0x12345681 }).convOut = 0xFFFFFF81 := by decide +kernel
theorem test_toUnsigned : (run .toUnsigned { base with convIn := 0xFFFFFFC1 }).convOut = 0x000000C1 := by decide +kernel
theorem test_toUnsigned_wraps : (run .toUnsigned { base with convIn := 0x0000017F }).convOut = 0x0000007F := by
  decide +kernel

/-- A short-layout data message (V-DE) with count 4, name INIT and a payload that starts with these bytes. -/
def shortMessage (payload : List Byte) : List Byte :=
  List.replicate 0x14 0 ++ [0x14, 0, 0, 0, 0, 0, 0, 0, 0x04, 0, 0, 0] ++ [0x49, 0x4E, 0x49, 0x54] ++
  List.replicate 0x10 0 ++ payload ++ List.replicate (0x88 - payload.length) 0

/-- Section 6: the byte pair (hi, lo) = (80, 80) decodes to -1408, and the curve byte 11 sets both curves. -/
theorem test_decode :
    let t := run .decode (State.input base (shortMessage ([0x80] ++ List.replicate 12 0 ++ [0x80] ++ List.replicate 18 0 ++ [0x11])))
    t.nameLen = 4 ∧ t.nameW0 = 0x54494E49 ∧ t.readField 9 = BitVec.ofInt 32 (-1408) ∧ t.readField 25 = 1 ∧
    t.readField 26 = 1 := by decide +kernel
/-- V-DE: a count above 8 is MALFORMED_BUFFER and changes no register. -/
theorem test_decode_count :
    let t := run .decode (State.input base ((shortMessage []).set 0x1C 9))
    t.status.word = 0x00000206 ∧ t.nameLen = 0 ∧ t.readField 9 = 0 := by decide +kernel

/-- V-FB and P2: Feedback -123 gives (FF, F3), RATIO 3200 gives 80 0C, and the padding is FF. -/
theorem test_encodePayload :
    let t := run .encodePayload ((base.writeField 9 (-123)).writeField 18 3200)
    t.outLen = 0x88 ∧ t.mem.readBytes obufBase 1 = some [0xFF] ∧ t.mem.readBytes (obufBase + 0x0D) 1 = some [0xF3] ∧
    t.mem.readBytes (obufBase + 0x16) 2 = some [0x80, 0x0C] ∧
    t.mem.readBytes (obufBase + 0x85) 3 = some [0xFF, 0xFF, 0xFF] := by decide +kernel

/-- V-FR: the embedded 0xF7 is packed. -/
theorem test_frame :
    obufOf (run (.frame 0x02) (State.input base [0xF7])) =
      some [0xF0, 0x11, 0x22, 0x33, 0x44, 0x55, 0x66, 0x77, 0x02, 0x40, 0x77, 0xF7] := by decide +kernel
/-- V-FR: an empty body. -/
theorem test_frame_empty :
    obufOf (run (.frame 0x7E) base) = some [0xF0, 0x11, 0x22, 0x33, 0x44, 0x55, 0x66, 0x77, 0x7E, 0xF7] := by
  decide +kernel

/-- P1's operands: NAME_LEN = 4 and "INIT". -/
def initPatch : State := { base with nameLen := 4, name := #v[0x49, 0x4E, 0x49, 0x54, 0, 0, 0, 0] }

/-- Message 2 of P1 (95_test_vectors.md section 7). -/
def message2 : List Byte :=
  [0xF0, 0x11, 0x22, 0x33, 0x44, 0x55, 0x66, 0x77, 0x02, 0x04, 0x46, 0x4D, 0x54, 0x43, 0x3C, 0x00,
   0x00, 0x00, 0x00, 0x00, 0x00, 0x00, 0x00, 0x02, 0x00, 0x00, 0x00, 0x00, 0x46, 0x4D, 0x4E, 0x4D,
   0x14, 0x00, 0x00, 0x00, 0x00, 0x00, 0x00, 0x00, 0x00, 0x00, 0x04, 0x00, 0x00, 0x00, 0x49, 0x4E] ++
  [0x49, 0x02, 0x54, 0x54, 0x50, 0x44, 0x54, 0x18, 0x00, 0x00, 0x00, 0x00, 0x00, 0x00, 0x00, 0x00,
   0x01, 0x00, 0x00, 0x00, 0x00, 0x01, 0x01, 0x01, 0x01] ++ List.replicate 144 0x00 ++
  [0x0E, 0x00, 0x00, 0x00, 0x7F, 0x7F, 0x7F, 0xF7]

/-- Message 1 of P1. -/
def message1 : List Byte :=
  [0xF0, 0x11, 0x22, 0x33, 0x44, 0x55, 0x66, 0x77, 0x01, 0x04, 0x04, 0, 0, 0, 0x3C, 0, 0, 0, 0, 0xF7]

/-- Message 3 of P1. -/
def message3 : List Byte := [0xF0, 0x11, 0x22, 0x33, 0x44, 0x55, 0x66, 0x77, 0x03, 0x10, 0x63, 0x01, 0x4E, 0x38, 0xF7]

/-- The state after P1's ENCODE_BURST. -/
def initBurst : State := resultOf (exec .encodeBurst initPatch)

theorem initBurst_eq : exec .encodeBurst initPatch = .next initBurst := next_resultOf (by decide +kernel)

/-- P1: lengths, checksum and the three messages. -/
theorem test_encodeBurst :
    (initBurst.msgLen0 = 20 ∧ initBurst.msgLen1 = 225 ∧ initBurst.msgLen2 = 15 ∧ initBurst.outLen = 260) ∧
    initBurst.crc = 0x38CE0163 ∧ initBurst.burstMessage 0 = some message1 ∧ initBurst.burstMessage 1 = some message2 ∧
    initBurst.burstMessage 2 = some message3 := by decide +kernel
/-- A name of 9 characters is NAME_LENGTH. -/
theorem test_encodeBurst_nameLength :
    (run .encodeBurst { base with nameLen := 9 }).status.word = 0x00000406 := by decide +kernel

/-- P1 decoded back: Feedback 0 becomes 1, every other field is 0. -/
theorem test_decodeInbound :
    let t := run .decodeInbound (State.input base message2)
    t.nameLen = 4 ∧ t.nameW0 = 0x54494E49 ∧ t.nameW1 = 0 ∧ t.readField 93 = 1 ∧ t.readField 94 = 0 := by decide +kernel
/-- R212: 20 bytes are too few. -/
theorem test_decodeInbound_short :
    (run .decodeInbound (State.input base (message2.take 20))).status.word = 0x00000206 := by decide +kernel

/-! ## Host accesses -/

/-- R63 and program A: four 8-bit writes read back as one little-endian word. -/
theorem test_buffer_little_endian :
    ((((((base.hostWrite .w8 0x1000 0x31).hostWrite .w8 0x1001 0x32).hostWrite .w8 0x1002 0x33).hostWrite .w8 0x1003 0x34).busRead
      .w32 0x1000) = .data 0x34333231) := by decide +kernel

/-- R64: misaligned, 16-bit, reserved and out-of-buffer accesses are bus errors. -/
theorem test_bus_errors :
    base.busRead .w32 0x0002 = .busError ∧ base.busRead .w8 0x0004 = .busError ∧ base.busRead .w16 0x1000 = .busError ∧
    base.busRead .w32 0x0030 = .busError ∧ base.busRead .w32 0x004C = .busError ∧ base.busRead .w8 0x1400 = .busError ∧
    base.busRead .w32 0x2500 = .busError ∧ base.busRead .w32 0x3400 = .busError := by decide +kernel

/-- R131: a host read of 32 bits at 0x3004 returns 0x77073096; HDR_LO and HDR_HI show TH. -/
theorem test_constant_registers :
    base.busRead .w32 0x3004 = .data 0x77073096 ∧ base.busRead .w32 0x0028 = .data 0x332211F0 ∧
    base.busRead .w32 0x002C = .data 0x77665544 := by decide +kernel

/-- R22 and program C's reads: each result register at its own address. -/
theorem test_result_registers :
    let s : State := { base with outLen := 260, msgLen0 := 20, msgLen1 := 225, msgLen2 := 15, crc := 0x38CE0163, convOut := 0x80 }
    s.busRead .w32 0x000C = .data 260 ∧ s.busRead .w32 0x0010 = .data 20 ∧ s.busRead .w32 0x0014 = .data 225 ∧
    s.busRead .w32 0x0018 = .data 15 ∧ s.busRead .w32 0x001C = .data 0x38CE0163 ∧ s.busRead .w32 0x0024 = .data 0x80 := by
  decide +kernel

/-- Program A's statements as bus operations (95_test_vectors.md section 9). -/
theorem test_statement_expansion :
    (Stmt.wr .inLen 9).ops = [.write .w32 0x0008 0x00000009] ∧ (Stmt.wrb 8 [0x39]).ops = [.write .w8 0x1008 0x39] ∧
    (Stmt.cmd .crc32).ops = [.write .w32 0x0000 0x00000003] ∧
    (Stmt.setname [0x49, 0x4E, 0x49, 0x54]).ops =
      [.write .w32 0x0044 0x54494E49, .write .w32 0x0048 0, .write .w32 0x0040 4] := by decide +kernel

/-! ## Witnesses: a concrete state and operands that meet the hypotheses of each statement, clause by clause -/

/-- The boundary words of the four ways to be illegal, and the legal words beside them. -/
theorem witness_IllegalWordsAreAcceptedAndFail :
    illegalWord 0x00000000 ∧ illegalWord 0x0000000B ∧ illegalWord 0x000000FF ∧ illegalWord 0x00000101 ∧
    illegalWord 0x80000003 ∧ illegalWord 0x00010008 ∧ ¬ illegalWord 0x00000001 ∧ ¬ illegalWord 0x0000000A ∧
    ¬ illegalWord 0x0000FF08 ∧ base.status.busy = false ∧
    (let s := base.pendNow 0x0000000B; s.status.busy = true ∧ s.wait = 0 ∧ s.pend = 0x0000000B) := by
  refine ⟨by simp [illegalWord], by simp [illegalWord], by simp [illegalWord], by simp [illegalWord], by simp [illegalWord],
    by simp [illegalWord], by simp [illegalWord], by simp [illegalWord], by simp [illegalWord], rfl, rfl, rfl, rfl⟩

/-- A CMD write to an idle block, and one to a block that still waits. -/
theorem witness_CommandWriteIsAcceptedOrDropped :
    (let s := { base with host := [.write .w32 0x0000 0x03] }
     s.host = .write .w32 0x0000 0x03 :: [] ∧ s.status.busy = false) ∧
    (let s := { base.pendNow 0x03 with host := [.write .w32 0x0000 0x04, .poll], wait := 1 }
     s.host = .write .w32 0x0000 0x04 :: [.poll] ∧ s.status.busy = true ∧ s.wait ≠ 0) := by decide +kernel

/-- OVR set, under a pending command that still waits. -/
theorem witness_OverrunIsRecordedUntilTheNextAcceptance :
    let s : State := { (base.pendNow 0x03).hostWrite .w32 0x0000 0x04 with wait := 2 }
    (base.pendNow 0x03).status.busy = true ∧ s.status.ovr = true ∧ step s = .next s.busCycle := by
  refine ⟨rfl, rfl, rfl⟩

theorem witness_StepRunsTheDecodedCommand :
    let s := base.pendNow 0x0000FF08
    s.status.busy = true ∧ s.wait = 0 ∧ s.hazard = false ∧ decodeCommand s.pend = .ok (.frame 0xFF) := by
  refine ⟨rfl, rfl, rfl, rfl⟩

/-- A pending command for each clause on either side (CRC32 reads IBUF and none of the other operands, DECODE writes NAME
and F but does not read them), an illegal pending word, and the first and last byte and word of IBUF. -/
theorem witness_OperandWriteWhileBusyIsPerformed :
    ([(0x03, Instr.crc32), (0x04, Instr.toSigned), (0x05, Instr.toUnsigned), (0x06, Instr.decode),
      (0x07, Instr.encodePayload), (0x09, Instr.encodeBurst)].all fun p =>
        (base.pendNow p.1).status.busy && decide ((decodeCommand (base.pendNow p.1).pend).toOption = some p.2)) = true ∧
    readsIbuf .crc32 = true ∧ readsIbuf .toSigned = false ∧ 0 < base.inCap ∧ 1023 < base.inCap ∧
    4 * 0 + 4 ≤ base.inCap ∧ 4 * 255 + 4 ≤ base.inCap ∧
    (base.pendNow 0x0B).status.busy = true ∧ decodeCommand (base.pendNow 0x0B).pend = .error (.reservedOpcode 0x0B) :=
  ⟨by decide +kernel, rfl, rfl, by decide +kernel, by decide +kernel, by decide +kernel, by decide +kernel, rfl, rfl⟩

/-- Under the hazard: a command that completes, and one that faults. -/
theorem witness_HazardLeavesOnlyResultsOpen :
    (let s := { base.pendNow 0x03 with hazard := true }
     s.status.busy = true ∧ s.wait = 0 ∧ s.hazard = true ∧ decodeCommand s.pend = .ok .crc32 ∧
     exec .crc32 s = .next (resultOf (exec .crc32 s))) ∧
    (let s := { base.pendNow 0x03 with hazard := true, inLen := 1 }
     decodeCommand s.pend = .ok .crc32 ∧ exec .crc32 s = .fault .unwrittenInput) :=
  ⟨⟨rfl, rfl, rfl, rfl, next_resultOf (by decide +kernel)⟩, ⟨rfl, rfl⟩⟩

/-- Under a pending CRC32: polling, a read of an operand, a read of a register it does not write, an ignored write. -/
theorem witness_RespectfulHostLeavesThePendingCommandAlone :
    let s := base.pendNow 0x03
    s.status.busy = true ∧ respectsHazards s .poll = true ∧ respectsHazards s (.read .w32 0x0008) = true ∧
    respectsHazards s (.read .w32 0x0024) = true ∧ respectsHazards s (.write .w32 0x000C 5) = true ∧
    respectsHazards s (.read .w32 0x001C) = false ∧ respectsHazards s (.write .w32 0x0020 5) = false ∧
    respectsHazards s (.write .w32 0x0000 5) = false ∧ BusOp.poll ≠ .reset := by decide +kernel

/-- The first and the last byte of IBUF and of OBUF, written; every register free of a writer in an idle block, under an
illegal pending word, and under a pending command that does not write it. -/
theorem witness_NonResultReadsAreCurrent :
    (let s := ((base.hostWrite .w8 0x1000 0x12).hostWrite .w8 0x13FF 0x34).writeObuf 0 [0x56] |>.writeObuf 1279 [0x78]
     s.mem.read 0x1000 = some 0x12 ∧ s.mem.read (0x1000 + 1023) = some 0x34 ∧ 1023 < s.inCap ∧
     s.mem.read 0x2000 = some 0x56 ∧ s.mem.read (0x2000 + 1279) = some 0x78 ∧ 1279 < s.outCap) ∧
    (∀ r, NotBeingWritten base r) ∧ (∀ r, NotBeingWritten (base.pendNow 0x0B) r) ∧
    (∀ j, NotBeingWritten (base.pendNow 0x03) (.field j)) ∧ NotBeingWritten (base.pendNow 0x03) .outLen ∧
    NotBeingWritten (base.pendNow 0x01) .crc ∧ NotBeingWritten (base.pendNow 0x01) .convOut ∧
    NotBeingWritten (base.pendNow 0x01) .msgLen0 ∧ NotBeingWritten (base.pendNow 0x01) .nameW1 := by
  have pending : ∀ (w : Word) (i : Instr) (r : RegName), decodeCommand w = .ok i → writesRegister r i = false →
      NotBeingWritten (base.pendNow w) r := fun w i r hd hw => .inr fun i' hi => by
    rw [pendNow_pend, hd] at hi
    cases hi
    exact hw
  exact ⟨by decide +kernel, fun _ => .inl rfl, fun _ => .inr fun _ h => (by cases h),
    fun j => pending 0x03 .crc32 (.field j) rfl rfl, pending 0x03 .crc32 .outLen rfl rfl,
    pending 0x01 .unpack78 .crc rfl rfl, pending 0x01 .unpack78 .convOut rfl rfl,
    pending 0x01 .unpack78 .msgLen0 rfl rfl, pending 0x01 .unpack78 .nameW1 rfl rfl⟩

/-- A state with bytes in both buffers and a pending command. -/
def busyState : State := (State.input base [0x31, 0x32, 0x33]).pendNow 0x03

theorem busyState_inv : Inv busyState where
  memory := by decide +kernel
  buffers := by decide +kernel
  fields := by decide +kernel
  status := by decide +kernel
  idle := by decide +kernel
  pending := fun h => by cases h

theorem busyState_steps : step busyState = .next (resultOf (step busyState)) := next_resultOf (by decide +kernel)

theorem witness_StepKeepsInvariant : Inv busyState ∧ step busyState = .next (resultOf (step busyState)) :=
  ⟨busyState_inv, busyState_steps⟩

theorem witness_StatusStaysConsistent :
    StatusConsistent busyState.status ∧ step busyState = .next (resultOf (step busyState)) :=
  ⟨busyState_inv.status, busyState_steps⟩

theorem witness_HeaderRegistersAreConstants : step busyState = .next (resultOf (step busyState)) := busyState_steps

/-- A reset of an idle block and one that abandons a pending command. -/
theorem witness_ResetInputAbandonsThePendingCommand :
    (let s := { base with host := [.reset, .poll] }
     s.host = .reset :: [.poll] ∧ ¬ (s.status.busy = true ∧ s.wait = 0)) ∧
    (let s := { busyState with host := [.reset], wait := 7 }
     s.host = .reset :: [] ∧ ¬ (s.status.busy = true ∧ s.wait = 0)) := by decide +kernel

theorem witness_PendingCommandReachesItsStep :
    (busyState.status.busy = true ∧ .reset ∉ busyState.host) ∧
    (let s := { busyState with host := [.poll, .write .w32 0x0000 0x04, .loopback], wait := 5 }
     s.status.busy = true ∧ .reset ∉ s.host) := by decide +kernel

theorem witness_PolledCommandDeliversItsResult :
    let s : State := { base with convIn := 0x80, host := (Stmt.run .toSigned).ops }
    s.status.busy = false ∧ s.host = (Stmt.run .toSigned).ops ∧
    exec .toSigned { s with
      pend := encodeCommand .toSigned
      status := { busy := true, done := false, err := false, ovr := false, ecode := 0 }
      host := [], hazard := false } =
      .next { s with
        pend := encodeCommand .toSigned, convOut := 0xFFFFFF80, host := []
        status := { busy := false, done := true, err := false, ovr := false, ecode := 0 } } := by
  refine ⟨rfl, rfl, rfl⟩

theorem witness_NameRegistersPackLittleEndian : base.status.busy = false := by decide +kernel

/-- The edges of the address map on both sides. -/
theorem witness_BusErrorsChangeNothing :
    (accessAllowed testParamsRaw .w32 0x0000 ∧ accessAllowed testParamsRaw .w32 0x002C ∧
     accessAllowed testParamsRaw .w32 0x0040 ∧ accessAllowed testParamsRaw .w32 0x0048 ∧
     accessAllowed testParamsRaw .w32 0x0100 ∧ accessAllowed testParamsRaw .w32 0x02E0 ∧
     accessAllowed testParamsRaw .w8 0x1000 ∧ accessAllowed testParamsRaw .w8 0x13FF ∧
     accessAllowed testParamsRaw .w32 0x13FC ∧ accessAllowed testParamsRaw .w8 0x2000 ∧
     accessAllowed testParamsRaw .w8 0x24FF ∧ accessAllowed testParamsRaw .w32 0x24FC ∧
     accessAllowed testParamsRaw .w32 0x3000 ∧ accessAllowed testParamsRaw .w32 0x33FC) ∧
    (¬ accessAllowed testParamsRaw .w32 0x0030 ∧ ¬ accessAllowed testParamsRaw .w32 0x003C ∧
     ¬ accessAllowed testParamsRaw .w32 0x004C ∧ ¬ accessAllowed testParamsRaw .w32 0x00FC ∧
     ¬ accessAllowed testParamsRaw .w32 0x02E4 ∧ ¬ accessAllowed testParamsRaw .w8 0x0000 ∧
     ¬ accessAllowed testParamsRaw .w16 0x1000 ∧ ¬ accessAllowed testParamsRaw .w32 0x1002 ∧
     ¬ accessAllowed testParamsRaw .w8 0x1400 ∧ ¬ accessAllowed testParamsRaw .w8 0x2500 ∧
     ¬ accessAllowed testParamsRaw .w8 0x3000 ∧ ¬ accessAllowed testParamsRaw .w32 0x3400) := by
  simp [accessAllowed, testParamsRaw]

/-- Addresses of each clause: a register, a field, a byte and a word of IBUF, OBUF. -/
theorem witness_HostAccessesChangeOnlyTheirTarget :
    ([0x0004, 0x0008, 0x0020, 0x0040, 0x0044, 0x0048, 0x0100, 0x02E0, 0x1000, 0x13FF, 0x2000].all fun a : Half =>
      decide (a ≠ 0x0000)) = true ∧ (0x1000 : Half) ≠ 0x0008 ∧ (0x0008 : Half) ≠ 0x0020 ∧ (0x0020 : Half) ≠ 0x0040 ∧
    (0x0040 : Half) ≠ 0x0044 ∧ (0x0040 : Half) ≠ 0x0048 ∧ (0x0100 : Half).toNat ≠ 0x100 + 4 * 1 ∧
    0x2000 ≤ (0x2000 : Half).toNat := by decide +kernel

/-- The first and the last aligned word and byte of IBUF, a written word of OBUF, and the last byte of an OBUF whose
capacity is no multiple of 4, beside unwritten bytes. -/
theorem witness_BufferWordsAreLittleEndian :
    (4 * 0 + 4 ≤ base.inCap ∧ 4 * 255 + 4 ≤ base.inCap ∧ 1023 < base.inCap) ∧
    (let s := base.writeObuf 0x4FC [1, 2, 3, 4]
     s.status.busy = false ∧ 4 * 0x13F + 4 ≤ s.outCap ∧ s.mem.read (0x2000 + 4 * 0x13F) = some 1 ∧
     s.mem.read (0x2000 + 4 * 0x13F + 1) = some 2 ∧ s.mem.read (0x2000 + 4 * 0x13F + 2) = some 3 ∧
     s.mem.read (0x2000 + 4 * 0x13F + 3) = some 4) ∧
    (let s := smallOut.writeObuf 264 [7]
     s.status.busy = false ∧ 264 < s.outCap ∧ s.mem.read (0x2000 + 264) = some 7 ∧ s.mem.read (0x2000 + 263) = none) ∧
    (let s := base.hostWrite .w8 0x13FF 9
     1023 < s.inCap ∧ s.mem.read (0x1000 + 1023) = some 9) := by decide +kernel

theorem witness_CrcRomHoldsTheTable : 0 < 256 ∧ 255 < 256 := by decide

/-- IN_LEN one above IN_CAP: the LENGTH_RANGE clause of every statement about a command that reads IBUF. -/
theorem witness_lengthRange : ({ base with inLen := 1025 } : State).inCap < ({ base with inLen := 1025 } : State).inLen.toNat := by
  decide +kernel

/-- The empty input, an input that fills IBUF, and one byte more. -/
theorem witness_Crc32WritesTheChecksum :
    HasInput (State.input base []) [] ∧ HasInput (State.input base (List.replicate 1024 0xA5)) (List.replicate 1024 0xA5) ∧
    ({ base with inLen := 1025 } : State).inCap < ({ base with inLen := 1025 } : State).inLen.toNat :=
  ⟨hasInput_input _ _ (by decide +kernel), hasInput_input _ _ (by decide +kernel), witness_lengthRange⟩

/-- A command that faults, and one that does not. -/
theorem witness_UnwrittenInputIsTheOnlyFault :
    (let s : State := { State.input base [0x31] with inLen := 2 }
     readsIbuf .crc32 = true ∧ s.inLen.toNat ≤ s.inCap ∧ 1 < s.inLen.toNat ∧ s.mem.read (0x1000 + 1) = none ∧
     isNext (exec .crc32 s) = false) ∧
    isNext (exec .crc32 (State.input base [0x31])) = true := by decide +kernel

/-- IN_LEN one above IN_CAP. -/
theorem witness_LengthRangeIsRaisedFirst :
    let s : State := { base with inLen := 1025 }
    readsIbuf .decode = true ∧ s.inCap < s.inLen.toNat ∧ s.status.ecode ≠ 0x05 ∧
    exec .decode s = .next (resultOf (exec .decode s)) ∧ (resultOf (exec .decode s)).status.ecode = 0x05 := by
  refine ⟨rfl, by decide +kernel, by decide +kernel, next_resultOf (by decide +kernel), by decide +kernel⟩

theorem witness_ErrorsWriteOnlyStatus :
    let s : State := State.input base [1, 2, 3]
    exec .unpack78 s = .next (resultOf (exec .unpack78 s)) ∧ s.status.err = false ∧
    (resultOf (exec .unpack78 s)).status.err = true := by
  refine ⟨next_resultOf (by decide +kernel), by decide +kernel, by decide +kernel⟩

/-- A command that writes OBUF and completes without error. -/
theorem witness_CommandsWriteOnlyTheirResults :
    let s : State := State.input base [0xF7]
    exec (.frame 2) s = .next (resultOf (exec (.frame 2) s)) ∧ writesObuf (.frame 2) = true ∧ s.status.err = false ∧
    (resultOf (exec (.frame 2) s)).status.err = false ∧ 0 < (resultOf (exec (.frame 2) s)).outLen.toNat := by
  refine ⟨next_resultOf (by decide +kernel), rfl, by decide +kernel, by decide +kernel, by decide +kernel⟩

/-- The same state with other bytes beyond IBUF[0..IN_LEN) and in OBUF; and a state that faults. -/
theorem witness_BytesBeyondTheInputDoNotMatter :
    (let s : State := State.input base [0xF7]
     (∀ k, k < s.inLen.toNat →
       Memory.read [(0x1000, 0xF7), (0x1001, 0x55), (0x2000, 0x66)] (ibufBase + k) = s.mem.read (ibufBase + k)) ∧
     exec (.frame 2) s = .next (resultOf (exec (.frame 2) s)) ∧ writesObuf (.frame 2) = true ∧ s.status.err = false ∧
     (resultOf (exec (.frame 2) s)).status.err = false) ∧
    (let s : State := { base with inLen := 1 }
     (∀ k, k < s.inLen.toNat → Memory.read [(0x2000, 0x66)] (ibufBase + k) = s.mem.read (ibufBase + k)) ∧
     exec .crc32 s = .fault .unwrittenInput) := by
  refine ⟨⟨by decide +kernel, next_resultOf (by decide +kernel), rfl, by decide +kernel, by decide +kernel⟩,
    by decide +kernel, rfl⟩

/-- One input for each case of R244, and one that is not malformed. -/
theorem witness_MalformedBufferExactlyInItsCases :
    ([(.unpack78, [1, 2, 3]), (.unpack78, prefix9), (.unpack78, prefix9 ++ [0xF7]), (.unpack78, prefix9 ++ [0]),
      (.pack87, [1, 2, 3]), (.decode, List.replicate 0x14 0), (.decode, (shortMessage []).take 0xBB),
      (.decode, (shortMessage []).set 0x1C 9), (.decodeInbound, message2.take 20),
      (.decodeInbound, message2.take 223)].all fun p : Instr × List Byte =>
        (resultOf (exec p.1 (State.input base p.2))).status.ecode == 0x02) = true ∧
    isNext (exec .unpack78 (State.input base (prefix9 ++ [0, 1]))) = true ∧
    (resultOf (exec .unpack78 (State.input base (prefix9 ++ [0, 1])))).status.ecode = 0 ∧
    (State.input base [1, 2, 3]).status.ecode = 0 ∧ HasInput (State.input base [1, 2, 3]) [1, 2, 3] := by
  refine ⟨by decide +kernel, by decide +kernel, by decide +kernel, by decide +kernel, hasInput_input _ _ (by decide +kernel)⟩

/-- One input for each way not to unpack. -/
theorem witness_unpackMalformed :
    (HasInput (State.input base [1, 2, 3]) [1, 2, 3] ∧ unpackMalformed [1, 2, 3]) ∧
    (HasInput (State.input base (prefix9 ++ [0xF7])) (prefix9 ++ [0xF7]) ∧ unpackMalformed (prefix9 ++ [0xF7])) ∧
    (HasInput (State.input base (prefix9 ++ [0])) (prefix9 ++ [0]) ∧ unpackMalformed (prefix9 ++ [0])) :=
  ⟨⟨hasInput_input _ _ (by decide +kernel), .inl (by decide)⟩,
    ⟨hasInput_input _ _ (by decide +kernel), .inr ⟨[], by decide, .inl rfl⟩⟩,
    ⟨hasInput_input _ _ (by decide +kernel), .inr ⟨[0], by decide, .inr rfl⟩⟩⟩

/-- A body with a terminator, one without, the shortest one, and one whose result exceeds the smallest OUT_CAP. -/
theorem witness_Unpack78WritesTheUnpackedBytes :
    (HasInput (State.input base (prefix9 ++ [0, 1, 0xF7])) (prefix9 ++ [0, 1, 0xF7]) ∧
     IsBodyOf (prefix9 ++ [0, 1, 0xF7]) [0, 1] ∧ ([0, 1] : List Byte) ≠ [] ∧ ([0, 1] : List Byte).length % 8 ≠ 1) ∧
    (HasInput (State.input base (prefix9 ++ [0, 1])) (prefix9 ++ [0, 1]) ∧ IsBodyOf (prefix9 ++ [0, 1]) [0, 1]) ∧
    (HasInput (State.input smallOut (prefix9 ++ List.replicate 304 0)) (prefix9 ++ List.replicate 304 0) ∧
     IsBodyOf (prefix9 ++ List.replicate 304 0) (List.replicate 304 0) ∧
     (State.input smallOut (prefix9 ++ List.replicate 304 0)).outCap < 304 - (304 + 7) / 8) ∧
    (HasInput (State.input base [1, 2, 3]) [1, 2, 3] ∧ unpackMalformed [1, 2, 3]) ∧
    ({ base with inLen := 1025 } : State).inCap < ({ base with inLen := 1025 } : State).inLen.toNat := by
  refine ⟨⟨hasInput_input _ _ (by decide +kernel), by decide +kernel, by decide, by decide⟩,
    ⟨hasInput_input _ _ (by decide +kernel), by decide +kernel⟩,
    ⟨hasInput_input _ _ (by decide +kernel), by decide +kernel, by decide +kernel⟩,
    witness_unpackMalformed.1, witness_lengthRange⟩

/-- The shortest message, and one whose packed form exceeds the smallest OUT_CAP. -/
theorem witness_Pack87WritesThePackedMessage :
    (HasInput (State.input base prefix9) prefix9 ∧ 9 ≤ prefix9.length ∧
     9 + (prefix9.length - 9) + (prefix9.length - 9 + 6) / 7 ≤ (State.input base prefix9).outCap) ∧
    (HasInput (State.input smallOut (List.replicate 234 0)) (List.replicate 234 0) ∧
     (State.input smallOut (List.replicate 234 0)).outCap < 9 + (234 - 9) + (234 - 9 + 6) / 7) ∧
    (HasInput (State.input base (prefix9.take 8)) (prefix9.take 8) ∧ (prefix9.take 8).length < 9) ∧
    ({ base with inLen := 1025 } : State).inCap < ({ base with inLen := 1025 } : State).inLen.toNat :=
  ⟨⟨hasInput_input _ _ (by decide +kernel), by decide +kernel, by decide +kernel⟩,
    ⟨hasInput_input _ _ (by decide +kernel), by decide +kernel⟩,
    ⟨hasInput_input _ _ (by decide +kernel), by decide⟩, witness_lengthRange⟩

/-- The empty body, and one whose frame exceeds the smallest OUT_CAP. -/
theorem witness_FrameWritesTheFramedMessage :
    (HasInput (State.input base []) [] ∧
     10 + ([] : List Byte).length + (([] : List Byte).length + 6) / 7 ≤ (State.input base []).outCap) ∧
    (HasInput (State.input smallOut (List.replicate 224 0)) (List.replicate 224 0) ∧
     (State.input smallOut (List.replicate 224 0)).outCap < 10 + 224 + (224 + 6) / 7) ∧
    ({ base with inLen := 1025 } : State).inCap < ({ base with inLen := 1025 } : State).inLen.toNat :=
  ⟨⟨hasInput_input _ _ (by decide +kernel), by decide +kernel⟩,
    ⟨hasInput_input _ _ (by decide +kernel), by decide +kernel⟩, witness_lengthRange⟩

theorem witness_PackThenUnpackIsIdentity : prefix9.length = 9 ∧ ([0xF7] : List Byte) ≠ [] := by decide

/-- The shortest canonical body, a full group, and a full group with a short last one. -/
theorem witness_UnpackThenPackIsIdentityOnCanonicalBodies :
    prefix9.length = 9 ∧ CanonicalBody [0x40, 0] ∧ CanonicalBody (List.replicate 8 0x7F) ∧
    CanonicalBody (List.replicate 8 0x7F ++ [0x60, 0x7F, 0x7F]) := by
  refine ⟨rfl, ?_, ?_, ?_⟩ <;> refine ⟨by decide, by decide, by decide, ?_⟩ <;> decide

theorem witness_PackedBodyIsMidiSafe :
    pack87 (prefix9 ++ [0xFF, 0x80]) = .ok (prefix9 ++ [0x60, 0x7F, 0x00]) := by rfl

theorem witness_ConverterLawsHold :
    ((-128 : Int) ≤ -128 ∧ (-128 : Int) ≤ 127) ∧ ((-128 : Int) ≤ 127 ∧ (127 : Int) ≤ 127) ∧
    ((128 : Int) ≤ 128 ∧ (128 : Int) ≤ 255) ∧ ((128 : Int) ≤ 255 ∧ (255 : Int) ≤ 255) := by decide

/-- The shortest buffer of the short layout with the greatest count; the same with one count more; an empty buffer. -/
theorem witness_DecodeWritesThePatch :
    (HasInput (State.input base ((shortMessage []).set 0x1C 8)) ((shortMessage []).set 0x1C 8) ∧
     ¬ decodeMalformed ((shortMessage []).set 0x1C 8)) ∧
    (HasInput (State.input base ((shortMessage []).set 0x1C 9)) ((shortMessage []).set 0x1C 9) ∧
     decodeMalformed ((shortMessage []).set 0x1C 9)) ∧
    (HasInput (State.input base []) [] ∧ decodeMalformed []) ∧
    ({ base with inLen := 1025 } : State).inCap < ({ base with inLen := 1025 } : State).inLen.toNat := by
  refine ⟨⟨hasInput_input _ _ (by decide +kernel), ?_⟩, ⟨hasInput_input _ _ (by decide +kernel), ?_⟩,
    ⟨hasInput_input _ _ (by decide +kernel), .inl (by decide)⟩, witness_lengthRange⟩ <;>
  simp only [decodeMalformed] <;> decide +kernel

/-- 28 groups of zeros: they unpack to a long-layout buffer of zeros. -/
theorem witness_DecodeInboundWritesThePatch :
    HasInput (State.input base (prefix9 ++ List.replicate 224 0 ++ [0xF7])) (prefix9 ++ List.replicate 224 0 ++ [0xF7]) ∧
    20 < (prefix9 ++ List.replicate 224 0 ++ [0xF7]).length ∧
    IsBodyOf (prefix9 ++ List.replicate 224 0 ++ [0xF7]) (List.replicate 224 0) ∧
    (List.replicate 224 0 : List Byte) ≠ [] ∧ (List.replicate 224 0 : List Byte).length % 8 ≠ 1 ∧
    IsUnpacked (List.replicate 224 0) (List.replicate 196 0) ∧ ¬ decodeMalformed (List.replicate 196 0) ∧
    (HasInput (State.input base [1, 2, 3]) [1, 2, 3] ∧ ([1, 2, 3] : List Byte).length ≤ 20 ∧ unpackMalformed [1, 2, 3]) ∧
    ({ base with inLen := 1025 } : State).inCap < ({ base with inLen := 1025 } : State).inLen.toNat := by
  refine ⟨hasInput_input _ _ (by decide +kernel), by decide +kernel, by decide +kernel, by decide +kernel,
    by decide +kernel, ⟨by decide +kernel, fun g n hn hg => ?_⟩, ?_,
    ⟨witness_unpackMalformed.1.1, by decide, witness_unpackMalformed.1.2⟩, witness_lengthRange⟩
  · have h : ∀ k m : Nat, (List.replicate k (0 : Byte)).getD m 0 = 0 := fun k m => by
      simp [List.getD, List.getElem?_replicate]; split <;> rfl
    simp only [h]; simp
  · simp only [decodeMalformed]
    decide +kernel

/-- The INIT patch's registers with Feedback 123, and the data message that encodes them. -/
def patchFields : Vector (BitVec 24) 121 := (initPatch.writeField 9 123).f
def patchMessage : List Byte := dataBody 4 [0x49, 0x4E, 0x49, 0x54] (encodePayload testParams.1.layout patchFields)

theorem patchMessage_decodes :
    (decodePatch testParams.1.layout patchMessage).toOption.isSome = true ∧
    (patchMessage.drop (payloadStart patchMessage)).take 0x88 = encodePayload testParams.1.layout patchFields := by
  decide +kernel

theorem witness_FieldsSurviveEncodeThenDecode :
    FieldsFit patchFields ∧ (∃ r, decodePatch testParams.1.layout patchMessage = .ok r) ∧
    (patchMessage.drop (payloadStart patchMessage)).take 0x88 = encodePayload testParams.1.layout patchFields ∧
    kindAt 0 ≠ .fb := by
  refine ⟨by decide +kernel, ?_, patchMessage_decodes.2, by decide +kernel⟩
  have h := patchMessage_decodes.1
  cases hd : decodePatch testParams.1.layout patchMessage with
  | ok r => exact ⟨r, rfl⟩
  | error e => rw [hd] at h; cases h

/-- The first and the last field, an engine value of -1 in every field, and a decoded patch. -/
theorem witness_FieldRegistersReadBack :
    base.status.busy = false ∧ (120 : Fin 121) ≠ 0 ∧
    (let p : DecodedPatch := { count := 0, name := Vector.replicate 8 0, fields := Vector.ofFn fun i => fieldCell i (-1) }
     ∀ i, p.fields.get i = fieldCell i (-1)) ∧
    ∃ r, decodePatch testParams.1.layout patchMessage = .ok r :=
  ⟨by decide +kernel, by decide +kernel, fun i => by simp, witness_FieldsSurviveEncodeThenDecode.2.1⟩

/-- Feedback 123, and the ends of both ranges. -/
theorem witness_FeedbackRoundTripIsTheStatedRule :
    (kindAt 9 = .fb ∧ (∃ r, decodePatch testParams.1.layout patchMessage = .ok r) ∧
     (patchMessage.drop (payloadStart patchMessage)).take 0x88 = encodePayload testParams.1.layout patchFields) ∧
    ((-1280 : Int) ≤ -1280 ∧ (-1280 : Int) ≤ 1279) ∧ ((-1280 : Int) ≤ 1279 ∧ (1279 : Int) ≤ 1279) ∧
    ((-32768 : Int) ≤ -32768 ∧ (-32768 : Int) ≤ 32767) ∧ ((-32768 : Int) ≤ 32767 ∧ (32767 : Int) ≤ 32767) :=
  ⟨⟨by decide +kernel, witness_FieldsSurviveEncodeThenDecode.2.1, patchMessage_decodes.2⟩, by decide⟩

theorem witness_FieldsFillThePayload : exampleLayout.wf = true := exampleLayout_wf

/-- The shortest and the longest name, and the lengths beside them. -/
theorem witness_EncodeBurstWritesThreeMessages :
    (4 ≤ initPatch.nameLen.toNat ∧ initPatch.nameLen.toNat ≤ 8) ∧
    (4 ≤ ({ base with nameLen := 8 } : State).nameLen.toNat ∧ ({ base with nameLen := 8 } : State).nameLen.toNat ≤ 8) ∧
    ({ base with nameLen := 3 } : State).nameLen.toNat < 4 ∧ 8 < ({ base with nameLen := 9 } : State).nameLen.toNat := by
  decide +kernel

/-- P1's burst, transmitted with the least spacing. -/
theorem witness_BurstIsTransmittedInOrder :
    exec .encodeBurst initPatch = .next initBurst ∧
    TransmitsBurst initBurst ⟨message1, 0, 20⟩ ⟨message2, 20 + Config.msgGap, 245 + Config.msgGap⟩
      ⟨message3, 245 + Config.msgGap + Config.msgGap, 260 + Config.msgGap + Config.msgGap⟩ :=
  ⟨initBurst_eq, test_encodeBurst.2.2.1, test_encodeBurst.2.2.2.1, test_encodeBurst.2.2.2.2, Nat.le_refl _, Nat.le_refl _⟩

theorem witness_BurstChecksumMatchesItsData :
    4 ≤ initPatch.nameLen.toNat ∧ initPatch.nameLen.toNat ≤ 8 ∧ exec .encodeBurst initPatch = .next initBurst :=
  ⟨by decide +kernel, by decide +kernel, initBurst_eq⟩

theorem witness_BurstDecodesBackToItsPatch :
    4 ≤ initPatch.nameLen.toNat ∧ initPatch.nameLen.toNat ≤ 8 ∧ FieldsFit initPatch.f ∧
    exec .encodeBurst initPatch = .next initBurst ∧ initBurst.burstMessage 1 = some message2 ∧
    (State.input base message2).par = initPatch.par ∧ HasInput (State.input base message2) message2 :=
  ⟨by decide +kernel, by decide +kernel, by decide +kernel, initBurst_eq, test_encodeBurst.2.2.2.1, rfl,
    hasInput_input _ _ (by decide +kernel)⟩

theorem witness_DefaultCapacitiesNeverOverflow :
    let s : State := State.input base [0xF7]
    s.inCap = 1024 ∧ s.outCap = 1280 ∧ s.status.ecode = 0 ∧
    exec (.frame 0) s = .next (resultOf (exec (.frame 0) s)) :=
  ⟨rfl, rfl, rfl, next_resultOf (by decide +kernel)⟩

theorem witness_InLenAndConvInReadBack : base.status.busy = false := by decide +kernel

end Sys2Proof.Tests
end

section
/-! The lengths of the results that commands store in OBUF (41_bitpacker.md R105, R113, 45_framer.md R203 to R209). -/

namespace Sys2Proof

@[simp] theorem packChunk_length (c : List Byte) : (packChunk c).length = c.length + 1 := by simp [packChunk]

/-- 41_bitpacker.md R113: one mask byte for each group of seven. -/
@[simp] theorem packBody_length (body : List Byte) :
    (packBody body).length = body.length + (body.length + 6) / 7 := by
  induction body using chunks_induction 7 (by decide) with
  | nil => rfl
  | step xs hne ih =>
    have hpos := List.length_pos_iff.2 hne
    have hcons : packBody xs = packChunk (xs.take 7) ++ packBody (xs.drop 7) := by
      rw [packBody, chunks_step 7 (by decide) xs hne, List.flatMap_cons, ← packBody]
    simp only [hcons, List.length_append, packChunk_length, List.length_take, ih, List.length_drop]
    omega

@[simp] theorem packMessage_length (b : List Byte) :
    (packMessage b).length = b.length + (b.length - 9 + 6) / 7 := by
  simp only [packMessage, List.length_append, List.length_take, packBody_length, List.length_drop]
  omega

@[simp] theorem frameMessage_length (header : List Byte) (seq : Byte) (body : List Byte) :
    (frameMessage header seq body).length =
      header.length + 1 + body.length + (header.length + 1 + body.length - 9 + 6) / 7 + 1 := by
  simp only [frameMessage, packMessage_length, List.length_append, List.length_singleton]

theorem pack87_length {b r : List Byte} (h : pack87 b = .ok r) :
    r.length = b.length + (b.length - 9 + 6) / 7 := by
  unfold pack87 at h
  split at h
  · cases h
  · cases h
    exact packMessage_length b

@[simp] theorem unpackData_length (m : Byte) (n : Nat) (ds : List Byte) : (unpackData m n ds).length = ds.length := by
  induction ds generalizing n with
  | nil => rfl
  | cons d ds ih => simp [unpackData, ih]

theorem unpackGroup_length_le (g : List Byte) : (unpackGroup g).length ≤ g.length := by
  cases g with
  | nil => exact Nat.le_refl _
  | cons m ds => simp [unpackGroup]

theorem unpackBody_length_le (body : List Byte) : (unpackBody body).length ≤ body.length := by
  induction body using chunks_induction 8 (by decide) with
  | nil => exact Nat.le_refl _
  | step xs hne ih =>
    have hcons : unpackBody xs = unpackGroup (xs.take 8) ++ unpackBody (xs.drop 8) := by
      rw [unpackBody, chunks_step 8 (by decide) xs hne, List.flatMap_cons, ← unpackBody]
    calc (unpackBody xs).length
        = (unpackGroup (xs.take 8)).length + (unpackBody (xs.drop 8)).length := by rw [hcons, List.length_append]
      _ ≤ (xs.take 8).length + (xs.drop 8).length := Nat.add_le_add (unpackGroup_length_le _) ih
      _ = xs.length := by rw [← List.length_append, List.take_append_drop]

theorem stripTerminator_length_le (body : List Byte) : (stripTerminator body).length ≤ body.length := by
  unfold stripTerminator
  split
  · simp
  · exact Nat.le_refl _

/-- Unpacking never lengthens a message. -/
theorem unpack78_length_le {b u : List Byte} (h : unpack78 b = .ok u) : u.length ≤ b.length := by
  have hu : u = unpackBody (stripTerminator (b.drop 9)) := by
    simp only [unpack78] at h
    split_ifs at h
    exact (Except.ok.inj h).symm
  calc u.length
      ≤ (stripTerminator (b.drop 9)).length := hu ▸ unpackBody_length_le _
    _ ≤ (b.drop 9).length := stripTerminator_length_le _
    _ ≤ b.length := by simp

@[simp] theorem encodePayload_length (L : Layout) (f : Vector (BitVec 24) 121) : (encodePayload L f).length = 0x88 := by
  simp [encodePayload]

@[simp] theorem declareBody_length (nl : Nat) : (declareBody nl).length = 8 := rfl

theorem dataBody_length (nl : Nat) (name payload : List Byte) :
    (dataBody nl name payload).length = 48 + (nameArea nl name).length + payload.length := by
  simp [dataBody, tagFMTC, tagFMNM, tagTPDT]
  omega

/-- 45_framer.md R203: the padding fills the name area to its nominal size. -/
theorem nameArea_length {nl : Nat} {name : List Byte} (hu : nl ≤ 8) (hn : name.length = nl) :
    (nameArea nl name).length = nameAreaSize nl := by
  have hsize : nl ≤ nameAreaSize nl := by unfold nameAreaSize; split <;> omega
  simp only [nameArea, List.length_append, List.length_replicate]
  omega

end Sys2Proof

namespace Sys2Proof.Machine

/-- 45_framer.md R209, 00_scope.md R10: the messages of a burst are at most 20 + 230 + 15 bytes. -/
theorem burst_length_le (s : State) (hu : s.nameLen.toNat ≤ 8) :
    s.burst.m1.length + s.burst.m2.length + s.burst.m3.length ≤ 265 := by
  have hheader : s.header.length = 8 := Vector.length_toList
  have hname : (s.nameBytes s.nameLen.toNat).length = s.nameLen.toNat := by simp [State.nameBytes, hu]
  have harea : (nameArea s.nameLen.toNat (s.nameBytes s.nameLen.toNat)).length ≤ 8 := by
    rw [nameArea_length hu hname, nameAreaSize]
    split <;> omega
  simp only [State.burst, burst, frameMessage_length, hheader, declareBody_length, dataBody_length,
    encodePayload_length, le32_length]
  omega

end Sys2Proof.Machine
end

section
/-! No command overflows with the default capacities (00_scope.md R10). -/

namespace Sys2Proof.Machine

/-- Whatever next state the result is, its STATUS.ECODE is not BUFFER_OVERFLOW. -/
def NoOverflow (r : Result) : Prop := ∀ t, r = .next t → t.status.ecode ≠ ErrorCode.bufferOverflow.code

theorem code_ne_bufferOverflow {e : ErrorCode} (he : e ≠ .bufferOverflow) :
    e.code ≠ ErrorCode.bufferOverflow.code := by
  cases e with
  | bufferOverflow => exact absurd rfl he
  | _ => decide

theorem noOverflow_raiseError (s : State) {e : ErrorCode} (he : e ≠ .bufferOverflow) :
    NoOverflow (.next (s.raiseError e)) := by
  rintro t ⟨⟩
  exact code_ne_bufferOverflow he

theorem noOverflow_complete {u : State} (hu : u.status.ecode = 0) : NoOverflow (.next u.complete) := by
  rintro t ⟨⟩
  have hcode : u.complete.status.ecode = 0 := hu
  rw [hcode]
  decide

theorem noOverflow_finishWithBytes {s : State} (hs : s.status.ecode = 0) {bs : List Byte}
    (hfit : bs.length ≤ s.outCap) : NoOverflow (finishWithBytes s bs) :=
  finishWithBytes_fits s bs hfit ▸ noOverflow_complete hs

theorem noOverflow_withInput {s : State} {k : List Byte → Result}
    (hk : ∀ b : List Byte, b.length ≤ s.inCap → NoOverflow (k b)) : NoOverflow (withInput s k) := by
  intro t h
  rcases withInput_next h with rfl | ⟨b, hb, hnext⟩
  · exact noOverflow_raiseError s (by decide) _ rfl
  · exact hk b (hb.length ▸ hb.inRange) t hnext

theorem noOverflow_orRaise {α : Type} {s : State} {r : Except ErrorCode α} {k : α → Result}
    (herr : ∀ {e}, r = .error e → e = .malformedBuffer) (hk : ∀ a, r = .ok a → NoOverflow (k a)) :
    NoOverflow (orRaise s r k) := by
  cases r with
  | error e => exact noOverflow_raiseError s (by rw [herr rfl]; decide)
  | ok a => exact hk a rfl

section DefaultCapacities

variable {s : State} (hin : s.inCap = 1024) (hout : s.outCap = 1280) (hs : s.status.ecode = 0)

include hs hout

theorem noOverflow_execEncodePayload : NoOverflow (execEncodePayload s) :=
  noOverflow_finishWithBytes hs (by rw [encodePayload_length]; omega)

theorem noOverflow_execEncodeBurst : NoOverflow (execEncodeBurst s) := by
  unfold execEncodeBurst
  split_ifs with hname hlong
  · exact noOverflow_raiseError s (by decide)
  · have := burst_length_le s (by omega)
    omega
  · exact noOverflow_complete hs

include hin

theorem noOverflow_execUnpack78 : NoOverflow (execUnpack78 s) :=
  noOverflow_withInput fun b hb => noOverflow_orRaise unpack78_error fun u hu =>
    noOverflow_finishWithBytes hs (by have := unpack78_length_le hu; omega)

/-- 00_scope.md R10: PACK87 of a full IBUF gives at most 1169 bytes. -/
theorem noOverflow_execPack87 : NoOverflow (execPack87 s) :=
  noOverflow_withInput fun b hb => noOverflow_orRaise pack87_error fun r hr =>
    noOverflow_finishWithBytes hs (by have := pack87_length hr; omega)

/-- FRAME of a full IBUF gives at most 1181 bytes. -/
theorem noOverflow_execFrame (seq : Byte) : NoOverflow (execFrame seq s) :=
  noOverflow_withInput fun b hb => noOverflow_finishWithBytes hs (by
    have hheader : s.header.length = 8 := Vector.length_toList
    rw [frameMessage_length]
    omega)

theorem noOverflow_exec (i : Instr) : NoOverflow (exec i s) := by
  cases i with
  | unpack78 => exact noOverflow_execUnpack78 hin hout hs
  | pack87 => exact noOverflow_execPack87 hin hout hs
  | crc32 => exact noOverflow_withInput fun _ _ => noOverflow_complete hs
  | toSigned => exact noOverflow_complete hs
  | toUnsigned => exact noOverflow_complete hs
  | decode =>
    exact noOverflow_withInput fun _ _ => noOverflow_orRaise decodePatch_error fun _ _ => noOverflow_complete hs
  | encodePayload => exact noOverflow_execEncodePayload hout hs
  | frame seq => exact noOverflow_execFrame hin hout hs seq
  | encodeBurst => exact noOverflow_execEncodeBurst hout hs
  | decodeInbound =>
    exact noOverflow_withInput fun _ _ => noOverflow_orRaise decodeInbound_error fun _ _ => noOverflow_complete hs

end DefaultCapacities

/-- Settles O54: with the default capacities every OBUF result fits, so no command gives ECODE = BUFFER_OVERFLOW. -/
theorem defaultCapacitiesNeverOverflow : Obligations.DefaultCapacitiesNeverOverflow :=
  fun i _ t hin hout hs h => noOverflow_exec hin hout hs i t h

end Sys2Proof.Machine
end

section
/-! Frames: what a successful command, a command under the operand hazard, and a host write leave unchanged. -/

namespace Sys2Proof.Machine

@[simp] theorem withResults_par (i : Instr) (s t : State) : (s.withResults i t).par = s.par := by cases i <;> rfl
@[simp] theorem withResults_status (i : Instr) (s t : State) : (s.withResults i t).status = s.status := by
  cases i <;> rfl
@[simp] theorem withResults_wait (i : Instr) (s t : State) : (s.withResults i t).wait = s.wait := by cases i <;> rfl
@[simp] theorem withResults_hazard (i : Instr) (s t : State) : (s.withResults i t).hazard = s.hazard := by
  cases i <;> rfl

/-- STATUS is no result register, so results may be taken before or after the completion. -/
@[simp] theorem withResults_complete (i : Instr) (s u : State) : s.withResults i u.complete = s.withResults i u := by
  cases i <;> rfl

@[simp] theorem withResults_raiseError (i : Instr) (s : State) (e : ErrorCode) :
    s.withResults i (s.raiseError e) = s := by
  cases i <;> rfl

@[simp] theorem withResults_completeArbitrarily (i : Instr) (s u : State) :
    u.withResults i (s.completeArbitrarily i) = u.withResults i (s.arbitraryResults i s.draws) := by
  cases i <;> rfl

/-- 10_state.md R22: a command that succeeds writes its own results and nothing else. -/
theorem WroteResults.frame {i : Instr} {s u : State} (h : WroteResults i s u) : u = s.withResults i u := by
  cases i with
  | unpack78 | pack87 | encodePayload | frame _ => obtain ⟨bs, _, rfl⟩ := h; rfl
  | crc32 | toSigned | toUnsigned => obtain ⟨c, rfl⟩ := h; rfl
  | decode | decodeInbound => obtain ⟨p, v, _, rfl⟩ := h; rfl
  | encodeBurst => obtain ⟨b, _, rfl⟩ := h; rfl

/-- 10_state.md R42: the arbitrary results lie in the result locations of the command. -/
theorem arbitraryResults_frame (i : Instr) (s : State) (n : Nat) :
    s.arbitraryResults i n = s.withResults i (s.arbitraryResults i n) := by
  cases i <;> rfl

theorem cmdWrite_idle {s : State} (h : s.status.busy = false) (w : Word) : s.cmdWrite w = s.accept w := by
  simp [State.cmdWrite, h]

theorem cmdWrite_busy {s : State} (h : s.status.busy = true) (w : Word) :
    s.cmdWrite w = { s with status := s.status.overrun } := by
  simp [State.cmdWrite, h]

/-- 20_memory.md R68: a write to any target but CMD stores its data in an operand and does nothing else. -/
theorem writeTarget_frame {t : Target} (ht : t ≠ .reg .cmd) (s : State) (w : Width) (d : Word) :
    ∃ u, s.writeTarget w t d = u ∧
      u = { s with inLen := u.inLen, convIn := u.convIn, nameLen := u.nameLen, name := u.name, f := u.f, mem := u.mem } := by
  cases t with
  | reg r =>
    cases r with
    | cmd => exact absurd rfl ht
    | _ => exact ⟨_, rfl, rfl⟩
  | ibuf _ | obuf _ | rom _ => exact ⟨_, rfl, rfl⟩

section OtherThanCmd

variable {t : Target} (ht : t ≠ .reg .cmd) (s : State) (w : Width) (d : Word)

include ht

theorem writeTarget_par : (s.writeTarget w t d).par = s.par := by
  obtain ⟨u, hu, hframe⟩ := writeTarget_frame ht s w d
  rw [hu, hframe]

theorem writeTarget_status : (s.writeTarget w t d).status = s.status := by
  obtain ⟨u, hu, hframe⟩ := writeTarget_frame ht s w d
  rw [hu, hframe]

theorem writeTarget_pend : (s.writeTarget w t d).pend = s.pend := by
  obtain ⟨u, hu, hframe⟩ := writeTarget_frame ht s w d
  rw [hu, hframe]

theorem writeTarget_wait : (s.writeTarget w t d).wait = s.wait := by
  obtain ⟨u, hu, hframe⟩ := writeTarget_frame ht s w d
  rw [hu, hframe]

theorem writeTarget_hazard : (s.writeTarget w t d).hazard = s.hazard := by
  obtain ⟨u, hu, hframe⟩ := writeTarget_frame ht s w d
  rw [hu, hframe]

theorem writeTarget_host : (s.writeTarget w t d).host = s.host := by
  obtain ⟨u, hu, hframe⟩ := writeTarget_frame ht s w d
  rw [hu, hframe]

end OtherThanCmd

end Sys2Proof.Machine
end

section
/-! What one step can do: the engine's ways to complete, the events of the host, and the parameters and STATUS after them. -/

namespace Sys2Proof.Machine

/-- 10_state.md R40, R42: an engine step that answers a next state rejects an illegal word, performs a command, or
completes it with arbitrary results. -/
theorem engineStep_next {s t : State} (h : engineStep s = .next t) :
    (∃ e, decodeCommand s.pend = .error e ∧ t = s.raiseError .illegalCommand) ∨
    ∃ i, decodeCommand s.pend = .ok i ∧
      ((s.hazard = false ∧ exec i s = .next t) ∨ (s.hazard = true ∧ t = s.completeArbitrarily i)) := by
  cases hd : decodeCommand s.pend with
  | error e =>
    rw [engineStep_illegal hd] at h
    exact .inl ⟨e, rfl, (Host.Outcome.next.inj h).symm⟩
  | ok i =>
    rw [engineStep_command hd] at h
    refine .inr ⟨i, rfl, ?_⟩
    cases hz : s.hazard with
    | false => exact .inl ⟨rfl, by rwa [settleHazard_clear hz] at h⟩
    | true =>
      cases he : exec i s with
      | next u =>
        rw [he, settleHazard_set hz] at h
        exact .inr ⟨rfl, (Host.Outcome.next.inj h).symm⟩
      | fault r => rw [he] at h; cases h
      | refused r => rw [he] at h; cases h

theorem step_next {s t : State} (h : step s = .next t) :
    (s.status.busy = true ∧ s.wait = 0 ∧ engineStep s = .next t) ∨
    (¬ (s.status.busy = true ∧ s.wait = 0) ∧ t = s.busCycle) := by
  by_cases hc : s.status.busy = true ∧ s.wait = 0
  · exact .inl ⟨hc.1, hc.2, step_engine hc.1 hc.2 ▸ h⟩
  · rw [step_busCycle hc] at h
    exact .inr ⟨hc, (Host.Outcome.next.inj h).symm⟩

theorem busCycle_cases (s : State) :
    s.busCycle = { s with wait := s.wait - 1 } ∨
    ∃ op rest, s.host = op :: rest ∧ s.busCycle = { s with wait := s.wait - 1, host := rest }.hostEvent op := by
  rcases hs : s.host with _ | ⟨op, rest⟩
  · exact .inl (by rw [busCycle_nil hs, hs])
  · exact .inr ⟨op, rest, rfl, busCycle_cons hs⟩

/-- 10_state.md R22: an engine step writes the results of one command, STATUS and the model's own fields. -/
theorem engineStep_frame {s t : State} (h : engineStep s = .next t) :
    ∃ i, t = { s.withResults i t with status := t.status, hazard := t.hazard, draws := t.draws } := by
  rcases engineStep_next h with ⟨e, -, rfl⟩ | ⟨i, -, ⟨-, he⟩ | ⟨-, rfl⟩⟩
  · exact ⟨.crc32, rfl⟩
  · refine ⟨i, ?_⟩
    rcases exec_next he with ⟨e, -, -, rfl⟩ | ⟨u, hu, rfl⟩
    · rw [withResults_raiseError]; rfl
    · rw [withResults_complete, ← hu.frame]; rfl
  · exact ⟨i, by rw [withResults_completeArbitrarily, ← arbitraryResults_frame]; rfl⟩

/-- 10_state.md R40, R42: the three ways in which an engine step completes. -/
theorem engineStep_status {s t : State} (h : engineStep s = .next t) :
    t.status = s.status.completed ∨ (∃ e, t.status = s.status.failed e) ∨ t.status = s.status.arbitrary s.draws := by
  rcases engineStep_next h with ⟨e, -, rfl⟩ | ⟨i, -, ⟨-, he⟩ | ⟨-, rfl⟩⟩
  · exact .inr (.inl ⟨_, rfl⟩)
  · rcases exec_next he with ⟨e, -, -, rfl⟩ | ⟨u, hu, rfl⟩
    · exact .inr (.inl ⟨e, rfl⟩)
    · exact .inl (by rw [complete_status, hu.frame, withResults_status])
  · exact .inr (.inr rfl)

theorem engineStep_par {s t : State} (h : engineStep s = .next t) : t.par = s.par := by
  obtain ⟨i, ht⟩ := engineStep_frame h
  rw [ht, withResults_par]

theorem engineStep_wait {s t : State} (h : engineStep s = .next t) : t.wait = s.wait := by
  obtain ⟨i, ht⟩ := engineStep_frame h
  rw [ht, withResults_wait]

/-- Every event of the host is a read, a poll or a LOOPBACK, which change the model's own fields only and put no reset
into the stream; a write; or reset. -/
theorem hostEvent_cases (s : State) (op : BusOp) :
    (∃ hs rs n, s.hostEvent op = { s with host := hs, resp := rs, draws := n } ∧
      (.reset ∉ s.host → .reset ∉ hs)) ∨
    (∃ n w a d, s.hostEvent op = { s with draws := n }.hostWrite w a d) ∨
    (op = .reset ∧ s.hostEvent op = s.resetInput) := by
  cases op with
  | write w a d => exact .inr (.inl ⟨s.draws, w, a, d, rfl⟩)
  | read w a => exact .inl ⟨_, _, _, rfl, id⟩
  | writeLast w a => exact .inr (.inl ⟨_, w, a, _, rfl⟩)
  | poll =>
    by_cases hb : s.status.busy = true
    · exact .inl ⟨.poll :: s.host, some (s.busRead .w32 RegName.status.addr), s.draws + 1,
        by simp [State.hostEvent, hb, State.hostRead], by simp⟩
    · exact .inl ⟨s.host, some (s.busRead .w32 RegName.status.addr), s.draws + 1,
        by simp [State.hostEvent, hb, State.hostRead], id⟩
  | loopback => exact .inl ⟨_, _, _, rfl, by simp [loopbackOps, copyOps]⟩
  | reset => exact .inr (.inr ⟨rfl, rfl⟩)

/-- 20_memory.md R65, R68: a host write gets a bus error, is a CMD write, or stores its data in another target. -/
theorem hostWrite_cases (s : State) (w : Width) (a : Half) (d : Word) :
    s.hostWrite w a d = { s with resp := some .busError } ∨
    s.hostWrite w a d = (s.cmdWrite d).acknowledge false ∨
    ∃ t, t ≠ .reg .cmd ∧ busTarget s.par.1 w a = some t ∧
      s.hostWrite w a d = (s.writeTarget w t d).acknowledge (inPlaces t (s.pendingPlaces Instr.operands)) := by
  cases ht : busTarget s.par.1 w a with
  | none => exact .inl (hostWrite_busError ht d)
  | some t =>
    by_cases hc : t = .reg .cmd
    · subst hc; exact .inr (.inl (hostWrite_target ht d))
    · exact .inr (.inr ⟨t, hc, rfl, hostWrite_target ht d⟩)

theorem hostWrite_par (s : State) (w : Width) (a : Half) (d : Word) : (s.hostWrite w a d).par = s.par := by
  rcases hostWrite_cases s w a d with h | h | ⟨t, ht, -, h⟩
  · rw [h]
  · rw [h, acknowledge_par, State.cmdWrite]
    split <;> rfl
  · rw [h, acknowledge_par, writeTarget_par ht]

/-- 10_state.md R23: a host write changes STATUS only by the acceptance or the drop of a command word. -/
theorem hostWrite_status (s : State) (w : Width) (a : Half) (d : Word) :
    (s.hostWrite w a d).status = s.status ∨ (s.hostWrite w a d).status = Status.accepted ∨
    (s.status.busy = true ∧ (s.hostWrite w a d).status = s.status.overrun) := by
  rcases hostWrite_cases s w a d with h | h | ⟨t, ht, -, h⟩
  · exact .inl (h ▸ rfl)
  · rw [h, acknowledge_status]
    cases hb : s.status.busy with
    | false => exact .inr (.inl (cmdWrite_idle hb d ▸ rfl))
    | true => exact .inr (.inr ⟨rfl, cmdWrite_busy hb d ▸ rfl⟩)
  · exact .inl (by rw [h, acknowledge_status, writeTarget_status ht])

theorem hostEvent_par (s : State) (op : BusOp) : (s.hostEvent op).par = s.par := by
  rcases hostEvent_cases s op with ⟨hs, rs, n, h, -⟩ | ⟨n, w, a, d, h⟩ | ⟨-, h⟩ <;> rw [h]
  · exact hostWrite_par _ w a d
  · rfl

theorem hostEvent_status (s : State) (op : BusOp) :
    (s.hostEvent op).status = s.status ∨ (s.hostEvent op).status = Status.accepted ∨
    (s.status.busy = true ∧ (s.hostEvent op).status = s.status.overrun) ∨
    (op = .reset ∧ (s.hostEvent op).status = Status.reset) := by
  rcases hostEvent_cases s op with ⟨hs, rs, n, h, -⟩ | ⟨n, w, a, d, h⟩ | ⟨hop, h⟩ <;> rw [h]
  · exact .inl rfl
  · rcases hostWrite_status { s with draws := n } w a d with h | h | ⟨hb, h⟩
    · exact .inl h
    · exact .inr (.inl h)
    · exact .inr (.inr (.inl ⟨hb, h⟩))
  · exact .inr (.inr (.inr ⟨hop, rfl⟩))

end Sys2Proof.Machine
end

section
/-! 10_state.md R28, R33: every step keeps STATUS consistent and leaves the parameters alone. -/

namespace Sys2Proof.Machine

theorem statusConsistent_completed {t : Status} (h : StatusConsistent t) : StatusConsistent t.completed :=
  ⟨fun hb => by simp at hb, h.2⟩

theorem statusConsistent_failed (t : Status) (e : ErrorCode) : StatusConsistent (t.failed e) :=
  ⟨fun hb => by simp at hb, fun he => by simp at he⟩

theorem statusConsistent_overrun {t : Status} (h : StatusConsistent t) : StatusConsistent t.overrun := h

theorem statusConsistent_accepted : StatusConsistent Status.accepted := by decide

theorem statusConsistent_reset : StatusConsistent Status.reset := by decide

theorem statusConsistent_arbitrary (t : Status) (n : Nat) : StatusConsistent (t.arbitrary n) :=
  ⟨fun hb => by simp [Status.arbitrary] at hb, fun he => if_neg (Bool.eq_false_iff.1 he)⟩

theorem statusConsistent_engineStep {s t : State} (hs : StatusConsistent s.status) (h : engineStep s = .next t) :
    StatusConsistent t.status := by
  rcases engineStep_status h with h | ⟨e, h⟩ | h <;> rw [h]
  · exact statusConsistent_completed hs
  · exact statusConsistent_failed _ e
  · exact statusConsistent_arbitrary _ _

theorem statusConsistent_hostEvent {s : State} (hs : StatusConsistent s.status) (op : BusOp) :
    StatusConsistent (s.hostEvent op).status := by
  rcases hostEvent_status s op with h | h | ⟨-, h⟩ | ⟨-, h⟩ <;> rw [h]
  · exact hs
  · exact statusConsistent_accepted
  · exact statusConsistent_overrun hs
  · exact statusConsistent_reset

theorem statusConsistent_step {s t : State} (hs : StatusConsistent s.status) (h : step s = .next t) :
    StatusConsistent t.status := by
  rcases step_next h with ⟨-, -, he⟩ | ⟨-, rfl⟩
  · exact statusConsistent_engineStep hs he
  · rcases busCycle_cases s with hc | ⟨op, rest, -, hc⟩ <;> rw [hc]
    · exact hs
    · refine statusConsistent_hostEvent ?_ op
      exact hs

/-- Settles O14: each new STATUS is a completion, an acceptance, an overrun or the reset value of the old one. -/
theorem statusStaysConsistent : Obligations.StatusStaysConsistent :=
  ⟨statusConsistent_reset, fun _ _ => statusConsistent_step⟩

theorem step_par {s t : State} (h : step s = .next t) : t.par = s.par := by
  rcases step_next h with ⟨-, -, he⟩ | ⟨-, rfl⟩
  · exact engineStep_par he
  · rcases busCycle_cases s with hc | ⟨op, rest, -, hc⟩ <;> rw [hc]
    exact hostEvent_par _ op

end Sys2Proof.Machine
end

section
/-! The invariant of Safety.lean: what the buffers and the field registers hold, kept by every operation. -/

namespace Sys2Proof

open Machine

/-- A successful decode stores every field of the patch by `fieldCell` (44_patch_codec.md R170). -/
theorem decodePatch_fields {L : Layout} {u : List Byte} {p : DecodedPatch} (h : decodePatch L u = .ok p) :
    p.fields = Vector.ofFn fun i => fieldCell i (decodeField L ((u.drop (payloadStart u)).take 0x88) i) := by
  unfold decodePatch at h
  split_ifs at h
  cases h
  rfl

end Sys2Proof

namespace Sys2Proof.Machine

theorem outCap_ge (s : State) : 265 ≤ s.outCap := (capacities s.par).2.2.1

theorem outCap_le (s : State) : s.outCap ≤ 4096 := (capacities s.par).2.2.2

theorem fieldCell_lt (i : Fin 121) (v : Int) : (fieldCell i v).toNat < 2 ^ (kindAt i).width := by
  rw [fieldCell, BitVec.toNat_ofNat]
  exact Nat.lt_of_le_of_lt (Nat.mod_le _ _) (truncN_lt _ v)

theorem fieldsFit_ofFn (g : Fin 121 → Int) : FieldsFit (Vector.ofFn fun i => fieldCell i (g i)) := fun i => by
  rw [Vector.get_ofFn]
  exact fieldCell_lt i (g i)

theorem writeField_get_same (s : State) (i : Fin 121) (v : Int) : (s.writeField i v).f.get i = fieldCell i v := by
  simp [Vector.get_eq_getElem]

theorem writeField_get_other {i j : Fin 121} (h : j ≠ i) (s : State) (v : Int) :
    (s.writeField i v).f.get j = s.f.get j := by
  rw [writeField_f, Vector.get_eq_getElem, Vector.getElem_set_ne _ _ (fun hij => h (Fin.ext hij.symm)),
    Vector.get_eq_getElem]

theorem fieldsFit_writeField {s : State} (h : FieldsFit s.f) (i : Fin 121) (v : Int) :
    FieldsFit (s.writeField i v).f := fun j => by
  by_cases hj : j = i
  · subst hj
    rw [writeField_get_same]
    exact fieldCell_lt j v
  · rw [writeField_get_other hj]
    exact h j

/-- The part of the invariant that speaks of stored data: the parameters, memory and the field registers. -/
structure StoredWell (p : Params) (m : Memory) (f : Vector (BitVec 24) 121) : Prop where
  memory : m.wf
  buffers : ∀ c ∈ m, inBuffers p c.1
  fields : FieldsFit f

theorem Inv.storedWell {s : State} (h : Inv s) : StoredWell s.par.1 s.mem s.f := ⟨h.memory, h.buffers, h.fields⟩

theorem StoredWell.writeBytes {p : Params} {m : Memory} {f : Vector (BitVec 24) 121} (h : StoredWell p m f) {a : Nat}
    {bs : List Byte} (hb : ∀ x, a ≤ x → x < a + bs.length → inBuffers p x) : StoredWell p (m.writeBytes a bs) f where
  memory := writeBytes_wf h.memory a bs
  buffers c hc := (mem_writeBytes hc).elim (h.buffers c) fun hx => hb c.1 hx.1 hx.2
  fields := h.fields

theorem StoredWell.writeObuf {p : Params} {m : Memory} {f : Vector (BitVec 24) 121} (h : StoredWell p m f) {i : Nat}
    {bs : List Byte} (hfit : i + bs.length ≤ p.outCap) : StoredWell p (m.writeBytes (obufBase + i) bs) f :=
  h.writeBytes fun x _ _ => .inr (by omega)

theorem StoredWell.writeIbuf {p : Params} {m : Memory} {f : Vector (BitVec 24) 121} (h : StoredWell p m f) {i : Nat}
    {bs : List Byte} (hfit : i + bs.length ≤ p.inCap) : StoredWell p (m.writeBytes (ibufBase + i) bs) f :=
  h.writeBytes fun x _ _ => .inl (by omega)

/-- Successful commands keep the stored data well formed: results fit OUT_CAP, decoded fields fit their widths. -/
theorem StoredWell.wroteResults {i : Instr} {s u : State} (h : StoredWell s.par.1 s.mem s.f)
    (hu : WroteResults i s u) : StoredWell u.par.1 u.mem u.f := by
  cases i with
  | unpack78 | pack87 | encodePayload | frame _ =>
    obtain ⟨bs, hfit, rfl⟩ := hu
    change _ ≤ s.par.1.outCap at hfit
    exact h.writeObuf (by omega)
  | crc32 | toSigned | toUnsigned => obtain ⟨c, rfl⟩ := hu; exact h
  | decode | decodeInbound =>
    obtain ⟨p, v, hp, rfl⟩ := hu
    have hfields : FieldsFit p.fields := decodePatch_fields hp ▸ fieldsFit_ofFn _
    exact ⟨h.memory, h.buffers, hfields⟩
  | encodeBurst =>
    obtain ⟨b, hfit, rfl⟩ := hu
    change _ ≤ s.par.1.outCap at hfit
    exact ((h.writeObuf (by omega)).writeObuf (by omega)).writeObuf (by omega)

theorem StoredWell.arbitraryObuf {s : State} (h : StoredWell s.par.1 s.mem s.f) (n : Nat) {k : Nat} (hk : k ≤ s.outCap) :
    StoredWell s.par.1 (s.arbitraryObuf n k).mem s.f :=
  h.writeObuf (by simpa using hk)

theorem StoredWell.arbitraryResults {s : State} (h : StoredWell s.par.1 s.mem s.f) (i : Instr) (n : Nat) :
    StoredWell (s.arbitraryResults i n).par.1 (s.arbitraryResults i n).mem (s.arbitraryResults i n).f := by
  have hcap : 265 ≤ s.outCap := outCap_ge s
  cases i with
  | unpack78 | pack87 | frame _ => exact h.arbitraryObuf n (Nat.le_refl _)
  | encodePayload | encodeBurst => exact h.arbitraryObuf n (by omega)
  | crc32 | toSigned | toUnsigned => exact h
  | decode | decodeInbound => exact ⟨h.memory, h.buffers, fieldsFit_ofFn _⟩

theorem StoredWell.engineStep {s t : State} (hs : StoredWell s.par.1 s.mem s.f) (h : engineStep s = .next t) :
    StoredWell t.par.1 t.mem t.f := by
  rcases engineStep_next h with ⟨e, -, rfl⟩ | ⟨i, -, ⟨-, he⟩ | ⟨-, rfl⟩⟩
  · exact hs
  · rcases exec_next he with ⟨e, -, -, rfl⟩ | ⟨u, hu, rfl⟩
    · exact hs
    · have hwell := hs.wroteResults hu
      exact hwell
  · exact hs.arbitraryResults i s.draws

/-- After an engine step no hazard is left: an illegal word never had one, and each completion of a command had none or
clears it. -/
theorem engineStep_hazard {s t : State} (hpending : s.hazard = true → ∃ i, decodeCommand s.pend = .ok i)
    (h : engineStep s = .next t) : t.hazard = false := by
  rcases engineStep_next h with ⟨e, hd, rfl⟩ | ⟨i, -, ⟨hz, he⟩ | ⟨-, rfl⟩⟩
  · refine Bool.eq_false_iff.2 fun hz => ?_
    obtain ⟨i, hi⟩ := hpending hz
    rw [hd] at hi
    cases hi
  · rcases exec_next he with ⟨e, -, -, rfl⟩ | ⟨u, hu, rfl⟩
    · exact hz
    · rw [complete_hazard, hu.frame, withResults_hazard, hz]
  · rfl

theorem Inv.engineStep {s t : State} (hs : Inv s) (hw : s.wait = 0) (h : engineStep s = .next t) : Inv t :=
  have hstored := hs.storedWell.engineStep h
  have hz := engineStep_hazard hs.pending h
  { memory := hstored.memory
    buffers := hstored.buffers
    fields := hstored.fields
    status := statusConsistent_engineStep hs.status h
    idle := fun _ => ⟨(engineStep_wait h).trans hw, hz⟩
    pending := fun hz' => by rw [hz] at hz'; cases hz' }

/-- The host's stream, the last response and the draw counter are free, and latency may pass. -/
theorem Inv.ownFields {s : State} (h : Inv s) (hs : List BusOp) (rs : Option BusResp) (n : Nat) {k : Nat}
    (hk : k ≤ s.wait) : Inv { s with host := hs, resp := rs, draws := n, wait := k } where
  memory := h.memory
  buffers := h.buffers
  fields := h.fields
  status := h.status
  idle hb := ⟨Nat.le_zero.1 ((h.idle hb).1 ▸ hk), (h.idle hb).2⟩
  pending := h.pending

theorem Inv.cmdWrite {s : State} (h : Inv s) (d : Word) : Inv (s.cmdWrite d) := by
  cases hb : s.status.busy with
  | false =>
    rw [cmdWrite_idle hb]
    exact ⟨h.memory, h.buffers, h.fields, statusConsistent_accepted, fun hi => by simp at hi, fun hz => by simp at hz⟩
  | true =>
    rw [cmdWrite_busy hb]
    exact ⟨h.memory, h.buffers, h.fields, statusConsistent_overrun h.status, h.idle, h.pending⟩

theorem StoredWell.writeTarget {s : State} (h : StoredWell s.par.1 s.mem s.f) {w : Width} {a : Half} {t : Target}
    (ht : busTarget s.par.1 w a = some t) (d : Word) (hc : t ≠ .reg .cmd) :
    StoredWell (s.writeTarget w t d).par.1 (s.writeTarget w t d).mem (s.writeTarget w t d).f := by
  cases t with
  | reg r =>
    cases r with
    | cmd => exact absurd rfl hc
    | field i => exact ⟨h.memory, h.buffers, fieldsFit_writeField h.fields i d.toInt⟩
    | _ => exact h
  | ibuf i => exact h.writeIbuf (busTarget_ibuf ht d).2
  | obuf _ | rom _ => exact h

/-- Only a pending command has operands and results. -/
theorem inPlaces_eq_true {s : State} {t : Target} {col : Instr → List Place}
    (h : inPlaces t (s.pendingPlaces col) = true) :
    s.status.busy = true ∧ ∃ i, decodeCommand s.pend = .ok i := by
  constructor
  · by_contra hb
    rw [inPlaces_idle (Bool.eq_false_iff.2 hb)] at h
    cases h
  · cases hd : decodeCommand s.pend with
    | ok i => exact ⟨i, rfl⟩
    | error e => rw [inPlaces_illegal hd] at h; cases h

theorem Inv.hostWrite {s : State} (h : Inv s) (w : Width) (a : Half) (d : Word) : Inv (s.hostWrite w a d) := by
  rcases hostWrite_cases s w a d with e | e | ⟨t, hc, ht, e⟩
  · rw [e]
    exact h.ownFields s.host (some .busError) s.draws (Nat.le_refl _)
  · have hcmd := h.cmdWrite d
    rw [e]
    exact ⟨hcmd.memory, hcmd.buffers, hcmd.fields, hcmd.status, by simpa using hcmd.idle, by simpa using hcmd.pending⟩
  · have hstored := h.storedWell.writeTarget ht d hc
    rw [e]
    refine ⟨hstored.memory, hstored.buffers, hstored.fields, ?_, ?_, ?_⟩
    · rw [acknowledge_status, writeTarget_status hc]
      exact h.status
    · rw [acknowledge_status, acknowledge_wait, acknowledge_hazard, writeTarget_status hc, writeTarget_wait hc,
        writeTarget_hazard hc]
      intro hb
      obtain ⟨hwait, hhazard⟩ := h.idle hb
      exact ⟨hwait, by rw [hhazard, inPlaces_idle hb]; rfl⟩
    · rw [acknowledge_hazard, acknowledge_pend, writeTarget_hazard hc, writeTarget_pend hc, Bool.or_eq_true]
      exact fun hz => hz.elim h.pending fun hp => (inPlaces_eq_true hp).2

theorem Inv.resetInput (s : State) : Inv s.resetInput where
  memory := List.Pairwise.nil
  buffers c hc := by simp at hc
  fields i := by simp
  status := statusConsistent_reset
  idle _ := ⟨rfl, rfl⟩
  pending hz := by simp at hz

theorem Inv.hostEvent {s : State} (h : Inv s) (op : BusOp) : Inv (s.hostEvent op) := by
  rcases hostEvent_cases s op with ⟨hs, rs, n, e, -⟩ | ⟨n, w, a, d, e⟩ | ⟨-, e⟩ <;> rw [e]
  · exact h.ownFields hs rs n (Nat.le_refl _)
  · exact (h.ownFields s.host s.resp n (Nat.le_refl _)).hostWrite w a d
  · exact Inv.resetInput s

theorem Inv.busCycle {s : State} (h : Inv s) : Inv s.busCycle := by
  rcases busCycle_cases s with e | ⟨op, rest, -, e⟩ <;> rw [e]
  · exact h.ownFields s.host s.resp s.draws (Nat.sub_le _ _)
  · exact (h.ownFields rest s.resp s.draws (Nat.sub_le _ _)).hostEvent op

/-- Settles O12: the engine's step and the bus cycle each keep the invariant. -/
theorem stepKeepsInvariant : Obligations.StepKeepsInvariant := by
  intro s t hs h
  rcases step_next h with ⟨-, hw, he⟩ | ⟨-, rfl⟩
  · exact hs.engineStep hw he
  · exact hs.busCycle

/-- Settles O13: the state after reset is one that the reset input leaves. -/
theorem resetMeetsInvariant : Obligations.ResetMeetsInvariant := Inv.resetInput State.reset

end Sys2Proof.Machine
end

section
/-! 10_state.md R22, R42, 20_memory.md R69: the frame of every command, also under the operand hazard. -/

namespace Sys2Proof.Machine

/-- Bytes stored right after others read as one longer write. -/
theorem read_writeBytes_append {m n : Memory} {a : Nat} {bs : List Byte}
    (hn : ∀ x, n.read x = (m.writeBytes a bs).read x) (cs : List Byte) (x : Nat) :
    (n.writeBytes (a + bs.length) cs).read x = (m.writeBytes a (bs ++ cs)).read x := by
  simp only [read_writeBytes, hn, List.length_append, List.getElem?_append]
  by_cases hcs : a + bs.length ≤ x ∧ x < a + bs.length + cs.length
  · rw [if_pos hcs, if_pos (by omega), if_neg (by omega), Nat.sub_add_eq]
  · rw [if_neg hcs]
    by_cases hbs : a ≤ x ∧ x < a + bs.length
    · rw [if_pos hbs, if_pos (by omega), if_pos (by omega)]
    · rw [if_neg hbs, if_neg (by omega)]

/-- 20_memory.md R69: a successful command that writes OBUF writes OBUF[0..OUT_LEN) and no other byte. -/
theorem WroteResults.obuf {i : Instr} {s u : State} (h : WroteResults i s u) (hi : writesObuf i = true) :
    ∃ bs : List Byte, bs.length ≤ s.outCap ∧ u.outLen = BitVec.ofNat 16 bs.length ∧
      ∀ a, u.mem.read a = (s.mem.writeBytes obufBase bs).read a := by
  cases i with
  | unpack78 | pack87 | encodePayload | frame _ =>
    obtain ⟨bs, hfit, rfl⟩ := h
    exact ⟨bs, hfit, rfl, fun _ => rfl⟩
  | crc32 | toSigned | toUnsigned | decode | decodeInbound => cases hi
  | encodeBurst =>
    obtain ⟨b, hfit, rfl⟩ := h
    have hlen : (b.m1 ++ b.m2 ++ b.m3).length = b.m1.length + b.m2.length + b.m3.length := by
      simp only [List.length_append]
    have hfirst := read_writeBytes_append (m := s.mem) (a := obufBase) (bs := b.m1) (fun _ => rfl) b.m2
    refine ⟨b.m1 ++ b.m2 ++ b.m3, hlen ▸ hfit, hlen ▸ rfl, fun a => ?_⟩
    rw [← read_writeBytes_append hfirst b.m3 a, List.length_append]
    rfl

/-- 10_state.md R22: a command that does not write OBUF leaves memory alone. -/
theorem withResults_mem {i : Instr} (hi : writesObuf i = false) (s t : State) : (s.withResults i t).mem = s.mem := by
  cases i with
  | unpack78 | pack87 | encodePayload | frame _ | encodeBurst => cases hi
  | crc32 | toSigned | toUnsigned | decode | decodeInbound => rfl

/-- OUT_LEN holds the length of a result without loss, since OUT_CAP is at most 4096. -/
theorem toNat_outLen {s : State} {n : Nat} (h : n ≤ s.outCap) : (BitVec.ofNat 16 n).toNat = n := by
  have hcap := outCap_le s
  rw [BitVec.toNat_ofNat, Nat.mod_eq_of_lt (by omega)]

theorem WroteResults.sameOutsideObuf {i : Instr} {s u : State} (h : WroteResults i s u) :
    SameOutsideObuf s u u.outLen.toNat := by
  intro a ha
  cases hi : writesObuf i with
  | false => rw [h.frame, withResults_mem hi]
  | true =>
    obtain ⟨bs, hfit, hlen, hread⟩ := h.obuf hi
    rw [hlen, toNat_outLen hfit] at ha
    rw [hread, read_writeBytes_outside _ _ _ _ ha]

theorem WroteResults.obuf_written {i : Instr} {s u : State} (h : WroteResults i s u) (hi : writesObuf i = true) {k : Nat}
    (hk : k < u.outLen.toNat) : u.mem.read (obufBase + k) ≠ none := by
  obtain ⟨bs, hfit, hlen, hread⟩ := h.obuf hi
  rw [hlen, toNat_outLen hfit] at hk
  rw [hread, read_writeBytes_inside _ _ _ _ hk]
  exact Option.some_ne_none _

/-- Settles O32: a command raised an error and wrote STATUS only, or wrote its results and completed. -/
theorem commandsWriteOnlyTheirResults : Obligations.CommandsWriteOnlyTheirResults := by
  intro i s t h
  rcases exec_next h with ⟨e, -, -, rfl⟩ | ⟨u, hu, rfl⟩
  · refine ⟨by rw [withResults_raiseError]; rfl, fun _ _ => rfl, fun _ _ herr => ?_⟩
    cases herr
  · have hstatus : u.status = s.status := by rw [hu.frame, withResults_status]
    refine ⟨?_, hu.sameOutsideObuf, fun hi _ _ k hk => hu.obuf_written hi hk⟩
    rw [withResults_complete, ← hu.frame, complete_status, ← hstatus]
    rfl

theorem arbitraryObuf_sameOutsideObuf (s : State) (n : Nat) {k : Nat} (hk : k ≤ s.outCap) :
    SameOutsideObuf s (s.arbitraryObuf n k) s.outCap := fun a ha =>
  read_writeBytes_outside s.mem obufBase _ a (by simp only [List.length_map, List.length_range]; omega)

theorem arbitraryResults_sameOutsideObuf (i : Instr) (s : State) (n : Nat) :
    SameOutsideObuf s (s.arbitraryResults i n) s.outCap := by
  have hcap : 265 ≤ s.outCap := outCap_ge s
  cases i with
  | unpack78 | pack87 | frame _ => exact arbitraryObuf_sameOutsideObuf s n (Nat.le_refl _)
  | encodePayload | encodeBurst => exact arbitraryObuf_sameOutsideObuf s n (by omega)
  | crc32 | toSigned | toUnsigned | decode | decodeInbound => exact fun _ _ => rfl

/-- Settles O8: a fault passes through, and every other outcome is replaced by the arbitrary completion. -/
theorem hazardLeavesOnlyResultsOpen : Obligations.HazardLeavesOnlyResultsOpen := by
  intro s i hb hw hz hd
  have hstep : step s = settleHazard i s (exec i s) := by rw [step_engine hb hw, engineStep_command hd]
  refine ⟨fun r hr => by rw [hstep, hr]; rfl, fun u hu => ⟨s.completeArbitrarily i, ?_, ?_, ?_⟩⟩
  · rw [hstep, hu, settleHazard_set hz]
  · rw [withResults_completeArbitrarily, ← arbitraryResults_frame]
    rfl
  · exact arbitraryResults_sameOutsideObuf i s s.draws

end Sys2Proof.Machine
end

section
/-! 10_state.md R29: which commands raise LENGTH_RANGE, and when. -/

namespace Sys2Proof.Machine

theorem code_injective : Function.Injective ErrorCode.code := by
  intro e e' h
  cases e <;> cases e' <;> revert h <;> decide

/-- Whatever next state the result is, its STATUS.ECODE is not the code of c. -/
def Avoids (c : ErrorCode) (r : Result) : Prop := ∀ t, r = .next t → t.status.ecode ≠ c.code

theorem avoids_raiseError {c e : ErrorCode} (he : e ≠ c) (s : State) : Avoids c (.next (s.raiseError e)) := by
  rintro t ⟨⟩
  exact fun h => he (code_injective h)

theorem avoids_complete {c : ErrorCode} {u : State} (hu : u.status.ecode ≠ c.code) : Avoids c (.next u.complete) := by
  rintro t ⟨⟩
  exact hu

theorem avoids_finishWithBytes {c : ErrorCode} (hc : .bufferOverflow ≠ c) {s : State} (hs : s.status.ecode ≠ c.code)
    (bs : List Byte) : Avoids c (finishWithBytes s bs) := by
  intro t h
  rcases finishWithBytes_next h with rfl | ⟨-, rfl⟩
  · exact avoids_raiseError hc s _ rfl
  · exact hs

theorem avoids_orRaise {α : Type} {c : ErrorCode} {s : State} {r : Except ErrorCode α} {k : α → Result}
    (herr : ∀ {e}, r = .error e → e ≠ c) (hk : ∀ a, Avoids c (k a)) : Avoids c (orRaise s r k) := by
  cases r with
  | error e => exact avoids_raiseError (herr rfl) s
  | ok a => exact hk a

/-- With IN_LEN in range, withInput raises no error of its own. -/
theorem avoids_withInput {c : ErrorCode} {s : State} {k : List Byte → Result} (hlen : s.inLen.toNat ≤ s.inCap)
    (hk : ∀ b, Avoids c (k b)) : Avoids c (withInput s k) := by
  rcases withInput_cases s k with ⟨hlong, -⟩ | ⟨-, -, h⟩ | ⟨b, -, h⟩
  · omega
  · rw [h]; nofun
  · rw [h]; exact hk b

/-- 10_state.md R29, 60_exceptions.md R246: LENGTH_RANGE comes from the check of IN_LEN alone. -/
theorem avoids_lengthRange {i : Instr} {s : State} (hs : s.status.ecode ≠ ErrorCode.lengthRange.code)
    (hlen : readsIbuf i = true → s.inLen.toNat ≤ s.inCap) : Avoids .lengthRange (exec i s) := by
  have malformed {e : ErrorCode} (he : e = .malformedBuffer) : e ≠ .lengthRange := by rw [he]; decide
  have bytes := avoids_finishWithBytes (c := .lengthRange) (by decide) hs
  cases i with
  | unpack78 =>
    exact avoids_withInput (hlen rfl) fun _ => avoids_orRaise (fun he => malformed (unpack78_error he)) bytes
  | pack87 =>
    exact avoids_withInput (hlen rfl) fun _ => avoids_orRaise (fun he => malformed (pack87_error he)) bytes
  | crc32 => exact avoids_withInput (hlen rfl) fun _ => avoids_complete hs
  | toSigned => exact avoids_complete hs
  | toUnsigned => exact avoids_complete hs
  | decode =>
    exact avoids_withInput (hlen rfl) fun _ =>
      avoids_orRaise (fun he => malformed (decodePatch_error he)) fun _ => avoids_complete hs
  | encodePayload => exact bytes _
  | frame seq => exact avoids_withInput (hlen rfl) fun _ => bytes _
  | encodeBurst =>
    change Avoids _ (execEncodeBurst s)
    unfold execEncodeBurst
    split_ifs
    · exact avoids_raiseError (by decide) s
    · exact avoids_raiseError (by decide) s
    · exact avoids_complete hs
  | decodeInbound =>
    exact avoids_withInput (hlen rfl) fun _ =>
      avoids_orRaise (fun he => malformed (decodeInbound_error he)) fun _ => avoids_complete hs

/-- Every command that reads IBUF checks IN_LEN first. -/
theorem exec_tooLong {i : Instr} {s : State} (hi : readsIbuf i = true) (h : s.inCap < s.inLen.toNat) :
    exec i s = .next (s.raiseError .lengthRange) := by
  cases i with
  | toSigned | toUnsigned | encodePayload | encodeBurst => cases hi
  | unpack78 | pack87 | crc32 | decode | frame _ | decodeInbound => exact withInput_tooLong s _ h

/-- Settles O30: the IN_LEN check raises LENGTH_RANGE first, and a command that passes it never raises that error. -/
theorem lengthRangeIsRaisedFirst : Obligations.LengthRangeIsRaisedFirst := by
  refine fun i s => ⟨exec_tooLong, fun t hs h ht => ?_⟩
  by_contra hnot
  have hlen : readsIbuf i = true → s.inLen.toNat ≤ s.inCap := fun hi => Nat.not_lt.1 fun hlong => hnot ⟨hi, hlong⟩
  exact avoids_lengthRange hs hlen t h ht

end Sys2Proof.Machine
end

section
/-! 10_state.md R22, R41: what the host reads, at every register's address and in the buffers. -/

namespace Sys2Proof.Machine

/-- 10_state.md R22: the column "written by engine" of Safety.lean is the model's own list of results. -/
theorem inPlaces_register_results (r : RegName) (i : Instr) : inPlaces (.reg r) i.results = writesRegister r i := by
  cases r <;> cases i <;> rfl

theorem inPlaces_obuf_results (k : Nat) (i : Instr) : inPlaces (.obuf k) i.results = writesRegister .outLen i := by
  cases i <;> rfl

/-- Nothing that no pending command writes is a result of the pending command. -/
theorem inPlaces_results_notBeingWritten {s : State} {r : RegName} {t : Target} (h : NotBeingWritten s r)
    (ht : ∀ i : Instr, inPlaces t i.results = writesRegister r i) :
    inPlaces t (s.pendingPlaces Instr.results) = false := by
  rcases h with hb | hw
  · exact inPlaces_idle hb _ t
  · cases hd : decodeCommand s.pend with
    | error e => exact inPlaces_illegal hd _ t
    | ok i =>
      cases hb : s.status.busy with
      | false => exact inPlaces_idle hb _ t
      | true =>
        have hp : s.pendingPlaces Instr.results = i.results := by simp [State.pendingPlaces, hd, hb]
        rw [hp, ht i, hw i hd]

/-- 10_state.md R41: a register that no pending command writes reads as its current value. -/
theorem busRead_notBeingWritten {s : State} {r : RegName} (h : NotBeingWritten s r) :
    s.busRead .w32 r.addr = .data (s.readReg r) := by
  have hr := inPlaces_results_notBeingWritten h (inPlaces_register_results r)
  simp [State.busRead, busTarget_reg, hr, State.readTarget]

theorem busTarget_obufByte (p : CheckedParams) (k : Nat) (h : k < p.1.outCap) :
    busTarget p.1 .w8 (BitVec.ofNat 16 (0x2000 + k)) = some (.obuf k) := by
  have := capacities p
  simp only [busTarget, BitVec.toNat_ofNat]
  rw [Nat.mod_eq_of_lt (by omega), if_neg (by omega), if_neg (by omega), if_pos (by omega)]
  simp [bufferIndex, h]

theorem readBuffer_byte {s : State} {a : Nat} {b : Byte} (h : s.mem.read a = some b) :
    s.readBuffer .w8 a = b.setWidth 32 := by
  simp [State.readBuffer, State.hostByte, h]

theorem busRead_ibufByte {s : State} {k : Nat} {b : Byte} (hk : k < s.inCap) (hb : s.mem.read (ibufBase + k) = some b) :
    s.busRead .w8 (BitVec.ofNat 16 (0x1000 + k)) = .data (b.setWidth 32) := by
  rw [busRead_current (busTarget_ibufByte s.par k hk) (.inr (.inr (.inl rfl)))]
  exact congrArg BusResp.data (readBuffer_byte hb)

theorem busRead_obufByte {s : State} (h : NotBeingWritten s .outLen) {k : Nat} {b : Byte} (hk : k < s.outCap)
    (hb : s.mem.read (obufBase + k) = some b) :
    s.busRead .w8 (BitVec.ofNat 16 (0x2000 + k)) = .data (b.setWidth 32) := by
  have hr := inPlaces_results_notBeingWritten h (inPlaces_obuf_results k)
  simp [State.busRead, busTarget_obufByte s.par k hk, hr, State.readTarget, readBuffer_byte hb]

theorem busRead_rom (s : State) (k : Byte) :
    s.busRead .w32 (BitVec.ofNat 16 (0x3000 + 4 * k.toNat)) = .data (crcRom k) :=
  busRead_current (busTarget_rom s.par.1 k) (.inl rfl)

/-- Registers that no command writes read as their current values in every state. -/
theorem busRead_constant (s : State) {r : RegName} (hr : ∀ i, writesRegister r i = false) :
    s.busRead .w32 r.addr = .data (s.readReg r) :=
  busRead_notBeingWritten (.inr fun i _ => hr i)

/-- Settles O10: every access is of a place that the pending command does not write. -/
theorem nonResultReadsAreCurrent : Obligations.NonResultReadsAreCurrent := by
  intro s
  exact ⟨busRead_constant s (r := .status) fun _ => rfl, busRead_constant s (r := .inLen) fun _ => rfl,
    busRead_constant s (r := .convIn) fun _ => rfl, busRead_constant s (r := .hdrLo) fun _ => rfl,
    busRead_constant s (r := .hdrHi) fun _ => rfl, fun k b => busRead_ibufByte, busRead_rom s,
    fun h => ⟨busRead_notBeingWritten h, fun k b => busRead_obufByte h⟩,
    busRead_notBeingWritten, busRead_notBeingWritten, busRead_notBeingWritten, busRead_notBeingWritten,
    busRead_notBeingWritten, busRead_notBeingWritten, busRead_notBeingWritten, busRead_notBeingWritten,
    fun j => busRead_notBeingWritten⟩

/-- Settles O16: the reset values are written out in `State.reset`, and the constants read as in every state. -/
theorem resetGivesTheStatedValues : Obligations.ResetGivesTheStatedValues :=
  ⟨rfl, rfl, rfl, rfl, rfl, rfl, rfl, rfl, rfl, rfl, Vector.get_replicate 8 0, Vector.get_replicate 121 0,
    fun _ => rfl, busRead_rom State.reset, busRead_constant _ (r := .hdrLo) fun _ => rfl,
    busRead_constant _ (r := .hdrHi) fun _ => rfl⟩

end Sys2Proof.Machine
end

section
/-! The words the host reads, taken apart into bits and bytes (00_scope.md R12, 10_state.md R26, R27, R33). -/

namespace Sys2Proof

/-- 20_memory.md R63: byte k of a word lies in its bits [8k+7:8k]. -/
theorem extractLsb'_wordOfBytes (b0 b1 b2 b3 : Byte) (k : Fin 4) :
    (wordOfBytes b0 b1 b2 b3).extractLsb' (8 * k.val) 8 = #v[b0, b1, b2, b3].get k := by
  unfold wordOfBytes
  match k with
  | 0 => exact BitVec.extractLsb'_append_eq_right
  | 1 =>
    rw [BitVec.extractLsb'_append_eq_of_le (by decide)]
    exact BitVec.extractLsb'_append_eq_right
  | 2 =>
    iterate 2 rw [BitVec.extractLsb'_append_eq_of_le (by decide)]
    exact BitVec.extractLsb'_append_eq_right
  | 3 =>
    iterate 3 rw [BitVec.extractLsb'_append_eq_of_le (by decide)]
    exact BitVec.extractLsb'_eq_self

/-- A word is put together from its own four bytes. -/
theorem wordOfBytes_extractLsb' (w : Word) :
    wordOfBytes (w.extractLsb' 0 8) (w.extractLsb' 8 8) (w.extractLsb' 16 8) (w.extractLsb' 24 8) = w := by
  have bytes23 : w.extractLsb' 24 8 ++ w.extractLsb' 16 8 = w.extractLsb' 16 16 :=
    BitVec.extractLsb'_append_extractLsb'_eq_extractLsb' rfl
  have bytes123 : w.extractLsb' 16 16 ++ w.extractLsb' 8 8 = w.extractLsb' 8 24 :=
    BitVec.extractLsb'_append_extractLsb'_eq_extractLsb' rfl
  have bytes0123 : w.extractLsb' 8 24 ++ w.extractLsb' 0 8 = w.extractLsb' 0 32 :=
    BitVec.extractLsb'_append_extractLsb'_eq_extractLsb' rfl
  rw [wordOfBytes, bytes23, bytes123, bytes0123]
  exact BitVec.extractLsb'_eq_self

end Sys2Proof

namespace Sys2Proof.Machine

/-- Settles O11: STATUS is no command's result, and its word carries each flag at its own bit. -/
theorem statusRegisterHasItsBits : Obligations.StatusRegisterHasItsBits := by
  intro s
  refine ⟨s.status.word, busRead_constant s (r := .status) fun _ => rfl, ?_⟩
  unfold Status.word
  refine ⟨?busy, ?done, ?err, ?ovr, ?ecode, ?between, ?above⟩
  case busy =>
    rw [BitVec.getLsbD_append]
    simp
  case done =>
    iterate 2 rw [BitVec.getLsbD_append]
    simp
  case err =>
    iterate 3 rw [BitVec.getLsbD_append]
    simp
  case ovr =>
    iterate 4 rw [BitVec.getLsbD_append]
    simp
  case ecode =>
    iterate 5 rw [BitVec.extractLsb'_append_eq_of_le (by decide)]
    exact BitVec.extractLsb'_append_eq_right
  case between =>
    iterate 4 rw [BitVec.extractLsb'_append_eq_of_le (by decide)]
    exact BitVec.extractLsb'_append_eq_right
  case above =>
    iterate 6 rw [BitVec.extractLsb'_append_eq_of_le (by decide)]
    exact BitVec.extractLsb'_eq_self

/-- Settles O15: each header byte is one byte of its word, no command writes the header registers, and the parameters
that hold them stay. -/
theorem headerRegistersAreConstants : Obligations.HeaderRegistersAreConstants := by
  refine ⟨fun s k => ⟨?lo, ?hi, busRead_constant s (r := .hdrLo) fun _ => rfl,
    busRead_constant s (r := .hdrHi) fun _ => rfl⟩, fun _ _ => step_par⟩
  case lo =>
    rw [State.hdrLo, extractLsb'_wordOfBytes]
    fin_cases k <;> rfl
  case hi =>
    rw [State.hdrHi, extractLsb'_wordOfBytes]
    fin_cases k <;> rfl

end Sys2Proof.Machine
end

section
/-! Host writes: what an acknowledged write stores, on an idle block and while a command is pending. -/

namespace Sys2Proof.Machine

theorem acknowledge_false (s : State) : s.acknowledge false = { s with resp := some .ack } := by
  simp [State.acknowledge]

theorem acknowledge_true (s : State) : s.acknowledge true = { s with resp := some .ack, hazard := true } := by
  simp [State.acknowledge]

/-- On an idle block a write stores its data and is acknowledged. -/
theorem hostWrite_idle {s : State} (hb : s.status.busy = false) {w : Width} {a : Half} {t : Target}
    (ht : busTarget s.par.1 w a = some t) (d : Word) :
    s.hostWrite w a d = (s.writeTarget w t d).acknowledge false := by
  rw [hostWrite_target ht, inPlaces_idle hb]

/-- CMD is no operand, so a CMD write never records a hazard. -/
theorem hostWrite_cmd (s : State) (d : Word) :
    s.hostWrite .w32 RegName.cmd.addr d = (s.cmdWrite d).acknowledge false :=
  hostWrite_target (busTarget_reg s.par.1 .cmd) d

/-- 10_state.md R22: on an idle block a register reads as the last write to a register left it. -/
theorem busRead_hostWrite_idle {s : State} (hb : s.status.busy = false) {r : RegName} (hr : r ≠ .cmd) (r' : RegName)
    (d : Word) : (s.hostWrite .w32 r.addr d).busRead .w32 r'.addr = .data ((s.writeReg r d).readReg r') := by
  have hbusy : ((s.writeTarget .w32 (.reg r) d).acknowledge false).status.busy = false := by
    rw [acknowledge_status, writeTarget_status (by simpa using hr), hb]
  rw [hostWrite_idle hb (busTarget_reg _ r), busRead_idle hbusy (busTarget_reg _ r')]
  cases r' <;> rfl

/-- A CMD write as the next event: the bus cycle is that write. -/
theorem busCycle_cmdWrite {s : State} {d : Word} {rest : List BusOp} (h : s.host = .write .w32 RegName.cmd.addr d :: rest) :
    s.busCycle = ({ s with wait := s.wait - 1, host := rest }.cmdWrite d).acknowledge false :=
  (busCycle_cons h).trans (hostWrite_cmd _ d)

/-- Settles O4: the write is the bus cycle's one event, accepted by an idle block and dropped by a busy one. -/
theorem commandWriteIsAcceptedOrDropped : Obligations.CommandWriteIsAcceptedOrDropped := by
  refine ⟨fun s w rest hhost => ⟨fun hb => ⟨s.busCycle, step_busCycle (by simp [hb]), ?_⟩, fun hb hw => ?_⟩,
    fun s => busRead_constant s (r := .cmd) fun _ => rfl⟩
  · rw [busCycle_cmdWrite hhost, cmdWrite_idle (by exact hb), acknowledge_false]
    rfl
  · rw [step_busCycle (by simp [hw]), busCycle_cmdWrite hhost, cmdWrite_busy (by exact hb), acknowledge_false]
    rfl

/-- Settles O6: an engine step without the hazard is the command's own meaning. -/
theorem stepRunsTheDecodedCommand : Obligations.StepRunsTheDecodedCommand := by
  intro s i hb hw hz hd
  rw [step_engine hb hw, engineStep_command hd, settleHazard_clear hz]

theorem writeReg_inLen (s : State) (d : Word) : s.writeReg .inLen d = { s with inLen := d.extractLsb' 0 16 } := by
  rw [State.writeReg, BitVec.setWidth_eq_extractLsb' (by decide)]

theorem writeReg_nameLen (s : State) (d : Word) : s.writeReg .nameLen d = { s with nameLen := d.extractLsb' 0 4 } := by
  rw [State.writeReg, BitVec.setWidth_eq_extractLsb' (by decide)]

/-- Settles O55: IN_LEN and CONV_IN store what their widths hold, and no command writes them. -/
theorem inLenAndConvInReadBack : Obligations.InLenAndConvInReadBack := by
  intro s d hb
  refine ⟨⟨?_, ?_⟩, ?_, busRead_hostWrite_idle hb (r := .convIn) (by decide) .convIn d⟩
  · refine (hostWrite_idle hb (busTarget_reg _ .inLen) d).trans ?_
    rw [acknowledge_false, State.writeTarget, writeReg_inLen]
  · refine (busRead_hostWrite_idle hb (r := .inLen) (by decide) .inLen d).trans (congrArg BusResp.data ?_)
    refine BitVec.eq_of_toNat_eq ?_
    change ((d.setWidth 16).setWidth 32).toNat = (d &&& 0x0000FFFF).toNat
    have hmask : d.toNat &&& 0xFFFF = d.toNat % 2 ^ 16 := Nat.and_two_pow_sub_one_eq_mod d.toNat 16
    rw [BitVec.toNat_setWidth, BitVec.toNat_setWidth, BitVec.toNat_and]
    exact hmask ▸ Nat.mod_eq_of_lt (by omega)
  · exact (hostWrite_idle hb (busTarget_reg _ .convIn) d).trans (acknowledge_false _)

/-- Settles O21: the low 4 bits of NAME_LEN are kept, and each name word is four bytes of NAME. -/
theorem nameRegistersPackLittleEndian : Obligations.NameRegistersPackLittleEndian := by
  intro s w hb
  have hw0 : s.hostWrite .w32 0x0044 w = (s.writeNameW0 w).acknowledge false :=
    hostWrite_idle hb (busTarget_reg _ .nameW0) w
  have hw1 : s.hostWrite .w32 0x0048 w = (s.writeNameW1 w).acknowledge false :=
    hostWrite_idle hb (busTarget_reg _ .nameW1) w
  refine ⟨?_, ?_, ?_, fun k => ?_⟩
  · rw [← BitVec.setWidth_eq_extractLsb' (by decide)]
    exact busRead_hostWrite_idle hb (r := .nameLen) (by decide) .nameLen w
  · exact (busRead_hostWrite_idle hb (r := .nameW0) (by decide) .nameW0 w).trans
      (congrArg BusResp.data (wordOfBytes_extractLsb' w))
  · exact (busRead_hostWrite_idle hb (r := .nameW1) (by decide) .nameW1 w).trans
      (congrArg BusResp.data (wordOfBytes_extractLsb' w))
  · rw [hw0, hw1]
    fin_cases k <;> exact ⟨rfl, rfl, rfl, rfl⟩

end Sys2Proof.Machine
end

section
/-! 10_state.md R24: field registers truncate what is written and extend what is read by their kind. -/

namespace Sys2Proof

theorem FieldKind.width_le (k : FieldKind) : k.width ≤ 24 := by cases k <;> decide

/-- Truncation to n bits is what the low n bits of the 32-bit word hold. -/
theorem truncN_eq_extractLsb' {n : Nat} (hn : n ≤ 32) (v : Int) :
    truncN n v = ((BitVec.ofInt 32 v).extractLsb' 0 n).toNat := by
  have hdvd : (2 ^ n : Int) ∣ 2 ^ 32 := pow_dvd_pow 2 hn
  have hpos : (0 : Int) < 2 ^ 32 := by decide
  rw [← BitVec.setWidth_eq_extractLsb' hn, BitVec.toNat_setWidth, BitVec.toNat_ofInt, truncN,
    ← Int.emod_emod_of_dvd v hdvd]
  zify
  rw [Int.toNat_of_nonneg (Int.emod_nonneg _ (by positivity)), Int.toNat_of_nonneg (Int.emod_nonneg _ hpos.ne')]

theorem zextN_toNat {n : Nat} (x : BitVec n) : BitVec.ofInt 32 (zextN n x.toNat) = x.setWidth 32 := by
  rw [zextN, Nat.mod_eq_of_lt x.isLt, BitVec.ofInt_natCast, BitVec.ofNat_toNat]

theorem sextN_toNat {n : Nat} (x : BitVec n) : BitVec.ofInt 32 (sextN n x.toNat) = x.signExtend 32 := by
  have hval : sextN n x.toNat = x.toInt := by
    rw [sextN, Nat.mod_eq_of_lt x.isLt, BitVec.toInt_eq_toNat_cond]
    cases n with
    | zero => simp [BitVec.eq_nil x]
    | succ n =>
      have hcond : x.toNat < 2 ^ n ↔ 2 * x.toNat < 2 ^ (n + 1) := by omega
      simp only [Nat.add_sub_cancel, hcond, Nat.cast_pow, Nat.cast_ofNat]
  rw [hval, BitVec.signExtend]

end Sys2Proof

namespace Sys2Proof.Machine

/-- The cell of field i holds the low bits of the integer as a 32-bit word. -/
theorem toNat_fieldCell (i : Fin 121) (v : Int) :
    (fieldCell i v).toNat = ((BitVec.ofInt 32 v).extractLsb' 0 (kindAt i).width).toNat := by
  have hwidth := FieldKind.width_le (kindAt i)
  have hlt : 2 ^ (kindAt i).width ≤ 2 ^ 24 := Nat.pow_le_pow_right (by decide) hwidth
  rw [← truncN_eq_extractLsb' (by omega), fieldCell, BitVec.toNat_ofNat,
    Nat.mod_eq_of_lt (Nat.lt_of_lt_of_le (truncN_lt _ v) hlt)]

/-- 10_state.md R24: a stored integer reads back as its low bits, extended by the kind. -/
theorem ofInt_fieldValue_fieldCell (i : Fin 121) (v : Int) :
    BitVec.ofInt 32 (fieldValue i (fieldCell i v)) = fieldReadback (kindAt i) (BitVec.ofInt 32 v) := by
  rw [fieldValue, toNat_fieldCell]
  cases kindAt i with
  | u8 | u16 | u24 | bit0 | bit4 => exact zextN_toNat _
  | s8 | fb => exact sextN_toNat _

theorem readField_of_fieldCell {s : State} {i : Fin 121} {v : Int} (h : s.f.get i = fieldCell i v) :
    s.readField i = fieldReadback (kindAt i) (BitVec.ofInt 32 v) := by
  rw [State.readField, h, ofInt_fieldValue_fieldCell]

theorem readField_writeField (s : State) (i : Fin 121) (v : Int) :
    (s.writeField i v).readField i = fieldReadback (kindAt i) (BitVec.ofInt 32 v) :=
  readField_of_fieldCell (writeField_get_same s i v)

/-- A host write of w stores its two's-complement value. -/
theorem readField_hostWrite (s : State) (i : Fin 121) (w : Word) :
    (s.writeField i w.toInt).readField i = fieldReadback (kindAt i) w := by
  rw [readField_writeField, BitVec.ofInt_toInt]

/-- Settles O20: every value of a field register was stored by `fieldCell`. -/
theorem fieldRegistersReadBack : Obligations.FieldRegistersReadBack := by
  refine ⟨fun s i w hb => ⟨?_, fun j hj => ?_⟩, readField_writeField, fun s p i v h => readField_of_fieldCell h,
    fun L u p s i h => readField_of_fieldCell ?_⟩
  · exact (busRead_hostWrite_idle hb (r := .field i) (by simp) (.field i) w).trans
      (congrArg BusResp.data (readField_hostWrite s i w))
  · have hsame : (s.writeField i w.toInt).readField j = s.readField j := by
      rw [State.readField, writeField_get_other hj, State.readField]
    exact (busRead_hostWrite_idle hb (r := .field i) (by simp) (.field j) w).trans
      ((congrArg BusResp.data hsame).trans (busRead_idle hb (busTarget_reg _ (.field j))).symm)
  · rw [setPatch_f, decodePatch_fields h, Vector.get_ofFn]

end Sys2Proof.Machine
end

section
/-! 10_state.md R42: host writes while a command is pending. -/

namespace Sys2Proof.Machine

theorem operands_inLen (i : Instr) : i.operands.contains .inLen = readsIbuf i := by cases i <;> rfl

theorem operands_convIn (i : Instr) : i.operands.contains .convIn = decide (i = .toSigned ∨ i = .toUnsigned) := by
  cases i <;> rfl

theorem operands_fields (i : Instr) :
    i.operands.contains .fields = decide (i = .encodePayload ∨ i = .encodeBurst) := by
  cases i <;> rfl

theorem operands_nameLen (i : Instr) : i.operands.contains .nameLen = decide (i = .encodeBurst) := by cases i <;> rfl

theorem operands_name (i : Instr) : i.operands.contains .name = decide (i = .encodeBurst) := by cases i <;> rfl

/-- 20_memory.md R63: byte j of an IBUF write lies at offset j. -/
theorem read_writeTarget_ibuf (s : State) (w : Width) (k : Nat) (d : Word) {j : Nat} (hj : j < (storedBytes w d).length) :
    (s.writeTarget w (.ibuf k) d).mem.read (0x1000 + k + j) = some (storedBytes w d)[j] :=
  read_writeBytes_inside s.mem (ibufBase + k) (storedBytes w d) j hj

theorem getElem_le32 (d : Word) {j : Nat} (hj : j < 4) : (le32 d)[j]'hj = d.extractLsb' (8 * j) 8 := by
  match j, hj with
  | 0, _ | 1, _ | 2, _ | 3, _ => rfl

section Pending

variable {s : State} {i : Instr} (hb : s.status.busy = true) (hd : decodeCommand s.pend = .ok i)
variable {w : Width} {a : Half} {t : Target} (ht : busTarget s.par.1 w a = some t) {p : Place} (hp : t.place = some p)

include hb hd ht hp

/-- A write to an operand of the pending command is performed and recorded. -/
theorem hostWrite_operand (hc : i.operands.contains p = true) (d : Word) :
    s.hostWrite w a d = { s.writeTarget w t d with resp := some .ack, hazard := true } := by
  rw [hostWrite_target ht, inPlaces_pending hb hd hp, hc, acknowledge_true]

/-- A write to a place the pending command does not read is performed and not recorded. -/
theorem hostWrite_notOperand (hc : i.operands.contains p = false) (d : Word) :
    s.hostWrite w a d = { s.writeTarget w t d with resp := some .ack } := by
  rw [hostWrite_target ht, inPlaces_pending hb hd hp, hc, acknowledge_false]

end Pending

/-- An illegal pending word has no operand, and a dropped CMD write is none. -/
theorem hostWrite_illegal_hazard {s : State} {e : IllegalWord} (hb : s.status.busy = true)
    (hd : decodeCommand s.pend = .error e) (w : Width) (a : Half) (d : Word) :
    (s.hostWrite w a d).hazard = s.hazard := by
  rcases hostWrite_cases s w a d with h | h | ⟨t, hc, -, h⟩ <;> rw [h]
  · rw [cmdWrite_busy hb, acknowledge_hazard, Bool.or_false]
  · rw [acknowledge_hazard, writeTarget_hazard hc, inPlaces_illegal hd, Bool.or_false]

section PendingPlaces

variable {s : State} {i : Instr} (hb : s.status.busy = true) (hd : decodeCommand s.pend = .ok i) (d : Word)

include hb hd

theorem hostWrite_inLen_operand (hi : readsIbuf i = true) :
    s.hostWrite .w32 0x0008 d = { s with inLen := d.extractLsb' 0 16, resp := some .ack, hazard := true } := by
  refine (hostWrite_operand hb hd (busTarget_reg _ .inLen) rfl ((operands_inLen i).trans hi) d).trans ?_
  rw [State.writeTarget, writeReg_inLen]

theorem hostWrite_inLen_notOperand (hi : readsIbuf i = false) :
    s.hostWrite .w32 0x0008 d = { s with inLen := d.extractLsb' 0 16, resp := some .ack } := by
  refine (hostWrite_notOperand hb hd (busTarget_reg _ .inLen) rfl ((operands_inLen i).trans hi) d).trans ?_
  rw [State.writeTarget, writeReg_inLen]

theorem hostWrite_nameLen_operand (hi : i = .encodeBurst) :
    s.hostWrite .w32 0x0040 d = { s with nameLen := d.extractLsb' 0 4, resp := some .ack, hazard := true } := by
  have hname := (operands_nameLen i).trans (decide_eq_true hi)
  refine (hostWrite_operand hb hd (busTarget_reg _ .nameLen) rfl hname d).trans ?_
  rw [State.writeTarget, writeReg_nameLen]

theorem hostWrite_nameLen_notOperand (hi : i ≠ .encodeBurst) :
    s.hostWrite .w32 0x0040 d = { s with nameLen := d.extractLsb' 0 4, resp := some .ack } := by
  have hname := (operands_nameLen i).trans (decide_eq_false hi)
  refine (hostWrite_notOperand hb hd (busTarget_reg _ .nameLen) rfl hname d).trans ?_
  rw [State.writeTarget, writeReg_nameLen]

theorem hostWrite_ibufByte_operand (hi : readsIbuf i = true) {k : Nat} (hk : k < s.inCap) :
    (s.hostWrite .w8 (BitVec.ofNat 16 (0x1000 + k)) d).hazard = true ∧
    (s.hostWrite .w8 (BitVec.ofNat 16 (0x1000 + k)) d).mem.read (0x1000 + k) = some (d.extractLsb' 0 8) := by
  rw [hostWrite_operand hb hd (busTarget_ibufByte s.par k hk) rfl hi d]
  exact ⟨rfl, read_writeTarget_ibuf s .w8 k d (j := 0) Nat.zero_lt_one⟩

theorem hostWrite_ibufWord_operand (hi : readsIbuf i = true) {k : Nat} (hk : 4 * k + 4 ≤ s.inCap) :
    (s.hostWrite .w32 (BitVec.ofNat 16 (0x1000 + 4 * k)) d).hazard = true := by
  rw [hostWrite_operand hb hd (busTarget_ibufWord s.par k hk) rfl hi d]

theorem hostWrite_ibufByte_notOperand (hi : readsIbuf i = false) {k : Nat} (hk : k < s.inCap) :
    ∃ t, s.hostWrite .w8 (BitVec.ofNat 16 (0x1000 + k)) d = t ∧
      t = { s with mem := t.mem, resp := some .ack } ∧ t.mem.read (0x1000 + k) = some (d.extractLsb' 0 8) :=
  ⟨_, hostWrite_notOperand hb hd (busTarget_ibufByte s.par k hk) rfl hi d, rfl,
    read_writeTarget_ibuf s .w8 k d (j := 0) Nat.zero_lt_one⟩

theorem hostWrite_ibufWord_notOperand (hi : readsIbuf i = false) {k : Nat} (hk : 4 * k + 4 ≤ s.inCap) :
    ∃ t, s.hostWrite .w32 (BitVec.ofNat 16 (0x1000 + 4 * k)) d = t ∧
      t = { s with mem := t.mem, resp := some .ack } ∧
      ∀ j, j < 4 → t.mem.read (0x1000 + 4 * k + j) = some (d.extractLsb' (8 * j) 8) :=
  ⟨_, hostWrite_notOperand hb hd (busTarget_ibufWord s.par k hk) rfl hi d, rfl,
    fun _ hj => (read_writeTarget_ibuf s .w32 (4 * k) d hj).trans (congrArg some (getElem_le32 d hj))⟩

end PendingPlaces

/-- Settles O7: each write is performed, and its place is or is not among the operands of the pending command. -/
theorem operandWriteWhileBusyIsPerformed : Obligations.OperandWriteWhileBusyIsPerformed := by
  refine ⟨fun s i d hb hd => ⟨fun hi => ?ibuf, fun hi => ?noIbuf, fun hi => ?convIn, fun hi hi' => ?noConvIn,
    fun hi j => ?field, fun hi hi' j => ?noField, fun hi => ?name, fun hi => ?noName⟩,
    fun s e hb hd => hostWrite_illegal_hazard hb hd⟩
  case ibuf =>
    exact ⟨hostWrite_inLen_operand hb hd d hi, fun k => hostWrite_ibufByte_operand hb hd d hi,
      fun k => hostWrite_ibufWord_operand hb hd d hi⟩
  case noIbuf =>
    exact ⟨hostWrite_inLen_notOperand hb hd d hi, fun k => hostWrite_ibufByte_notOperand hb hd d hi,
      fun k => hostWrite_ibufWord_notOperand hb hd d hi⟩
  case convIn =>
    have hconv := (operands_convIn i).trans (decide_eq_true hi)
    exact hostWrite_operand hb hd (busTarget_reg _ .convIn) rfl hconv d
  case noConvIn =>
    have hconv := (operands_convIn i).trans (decide_eq_false (not_or.2 ⟨hi, hi'⟩))
    exact hostWrite_notOperand hb hd (busTarget_reg _ .convIn) rfl hconv d
  case field =>
    have hfields := (operands_fields i).trans (decide_eq_true hi)
    have hwrite := hostWrite_operand hb hd (busTarget_reg _ (.field j)) rfl hfields d
    exact ⟨congrArg State.hazard hwrite,
      (congrArg (State.readField · j) hwrite).trans (readField_hostWrite s j d)⟩
  case noField =>
    have hfields := (operands_fields i).trans (decide_eq_false (not_or.2 ⟨hi, hi'⟩))
    exact ⟨_, hostWrite_notOperand hb hd (busTarget_reg _ (.field j)) rfl hfields d, rfl, readField_hostWrite s j d⟩
  case name =>
    have hname := (operands_name i).trans (decide_eq_true hi)
    have hw0 := hostWrite_operand hb hd (busTarget_reg _ .nameW0) rfl hname d
    have hw1 := hostWrite_operand hb hd (busTarget_reg _ .nameW1) rfl hname d
    exact ⟨hostWrite_nameLen_operand hb hd d hi, congrArg State.hazard hw0,
      (congrArg State.nameW0 hw0).trans (wordOfBytes_extractLsb' d), congrArg State.hazard hw1,
      (congrArg State.nameW1 hw1).trans (wordOfBytes_extractLsb' d)⟩
  case noName =>
    have hname := (operands_name i).trans (decide_eq_false hi)
    exact ⟨hostWrite_nameLen_notOperand hb hd d hi,
      ⟨_, hostWrite_notOperand hb hd (busTarget_reg _ .nameW0) rfl hname d, rfl, wordOfBytes_extractLsb' d⟩,
      ⟨_, hostWrite_notOperand hb hd (busTarget_reg _ .nameW1) rfl hname d, rfl, wordOfBytes_extractLsb' d⟩⟩

end Sys2Proof.Machine
end

section
/-! 10_state.md R40, 70_reset_and_hazards.md R281: a pending command waits out its latency. -/

namespace Sys2Proof.Machine

/-- What bus cycles without a reset keep of a pending command. -/
structure StillPending (s t : State) : Prop where
  busy : t.status.busy = true
  pend : t.pend = s.pend
  wait : t.wait = s.wait
  noReset : .reset ∉ s.host → .reset ∉ t.host

theorem stillPending_hostWrite {s : State} (hb : s.status.busy = true) (w : Width) (a : Half) (d : Word) :
    StillPending s (s.hostWrite w a d) := by
  rcases hostWrite_cases s w a d with h | h | ⟨t, hc, -, h⟩ <;> rw [h]
  · exact ⟨hb, rfl, rfl, id⟩
  · rw [cmdWrite_busy hb]
    exact ⟨hb, rfl, rfl, id⟩
  · exact ⟨(congrArg Status.busy (writeTarget_status hc s w d)).trans hb, writeTarget_pend hc s w d,
      writeTarget_wait hc s w d, fun hr => (writeTarget_host hc s w d).symm ▸ hr⟩

theorem stillPending_hostEvent {s : State} (hb : s.status.busy = true) {op : BusOp} (hop : op ≠ .reset) :
    StillPending s (s.hostEvent op) := by
  rcases hostEvent_cases s op with ⟨hs, rs, n, h, hr⟩ | ⟨n, w, a, d, h⟩ | ⟨hreset, -⟩
  · exact h ▸ ⟨hb, rfl, rfl, hr⟩
  · have hwrite := stillPending_hostWrite (s := { s with draws := n }) hb w a d
    exact h ▸ ⟨hwrite.busy, hwrite.pend, hwrite.wait, hwrite.noReset⟩
  · exact absurd hreset hop

/-- Each bus cycle takes one cycle off the latency and keeps the command pending, unless reset comes. -/
theorem stillPending_busCycle {s : State} (hb : s.status.busy = true) (hr : .reset ∉ s.host) :
    s.busCycle.status.busy = true ∧ s.busCycle.pend = s.pend ∧ s.busCycle.wait = s.wait - 1 ∧
    .reset ∉ s.busCycle.host := by
  rcases busCycle_cases s with h | ⟨op, rest, hhost, h⟩ <;> rw [h]
  · exact ⟨hb, rfl, rfl, hr⟩
  · rw [hhost, List.mem_cons, not_or] at hr
    obtain ⟨hop, hrest⟩ := hr
    have hp := stillPending_hostEvent (s := { s with wait := s.wait - 1, host := rest }) hb (Ne.symm hop)
    exact ⟨hp.busy, hp.pend, hp.wait, hp.noReset hrest⟩

theorem run_step {M : Host.Core} {s u : M.State} (h : M.step s = .next u) (n : Nat) : M.run (n + 1) s = M.run n u := by
  rw [Host.Core.run, h]

/-- Settles O18, by induction on the latency that is left. -/
theorem pendingCommandReachesItsStep : Obligations.PendingCommandReachesItsStep := by
  intro s
  induction hn : s.wait generalizing s with
  | zero => exact fun hb _ => ⟨s, rfl, hb, hn, rfl⟩
  | succ n ih =>
    intro hb hr
    obtain ⟨hb', hpend, hwait, hr'⟩ := stillPending_busCycle hb hr
    obtain ⟨t, hrun, htb, htw, htp⟩ := ih s.busCycle (by rw [hwait, hn]; rfl) hb' hr'
    have hstep : Sys2Proof.core.step s = .next s.busCycle := step_busCycle (by simp [hn])
    exact ⟨t, (run_step hstep n).trans hrun, htb, htw, htp.trans hpend⟩

end Sys2Proof.Machine
end

section
/-! 20_memory.md R61, R64, R65, R68: which accesses the address map answers, and what a host write leaves alone. -/

namespace Sys2Proof.Machine

theorem plainRegisterAt_eq_some {a : Nat} {r : RegName} (h : plainRegisterAt a = some r) : r.addr.toNat = a := by
  unfold plainRegisterAt at h
  split at h <;> cases h <;> rfl

/-- 10_state.md R22: a register answers at its own address only. -/
theorem registerAt_eq_some {a : Nat} {r : RegName} (ha : a % 4 = 0) (h : registerAt a = some r) : r.addr.toNat = a := by
  unfold registerAt at h
  split at h
  · cases h
    simp only [RegName.addr, BitVec.toNat_ofNat]
    omega
  · exact plainRegisterAt_eq_some h

theorem plainRegisterAt_isSome_iff {a : Nat} (ha : a % 4 = 0) :
    (plainRegisterAt a).isSome = true ↔ a < 0x30 ∨ (0x40 ≤ a ∧ a < 0x4C) := by
  unfold plainRegisterAt
  split
  case h_16 =>
    simp only [imp_false] at *
    simp only [Option.isSome_none, Bool.false_eq_true, false_iff]
    omega
  all_goals simp

/-- 20_memory.md R61: the word-aligned addresses below 0x1000 that hold a register. -/
theorem registerAt_isSome_iff {a : Nat} (ha : a % 4 = 0) :
    (registerAt a).isSome = true ↔ a < 0x30 ∨ (0x40 ≤ a ∧ a < 0x4C) ∨ (0x100 ≤ a ∧ a < 0x2E4) := by
  unfold registerAt
  split
  · simp; omega
  · rw [plainRegisterAt_isSome_iff ha]; omega

/-- 20_memory.md R64: the accesses that fit a buffer of the given capacity. -/
theorem bufferIndex_isSome_iff (cap : Nat) (w : Width) (i : Nat) :
    (bufferIndex cap w i).isSome = true ↔ (w = .w8 ∧ i < cap) ∨ (w = .w32 ∧ i % 4 = 0 ∧ i + 4 ≤ cap) := by
  cases w <;> simp [bufferIndex]

/-- 20_memory.md R61, R64: an address gets a target exactly where the map allows the access. -/
theorem busTarget_isSome_iff (p : CheckedParams) (w : Width) (a : Half) :
    (busTarget p.1 w a).isSome = true ↔ accessAllowed p.1 w a.toNat := by
  have hcap := capacities p
  simp only [busTarget]
  generalize a.toNat = n
  split_ifs with _ hregister _ _ _ hrom
  case pos => -- a word-aligned address among the registers
    obtain ⟨rfl, haligned⟩ := hregister
    rw [Option.isSome_map, registerAt_isSome_iff haligned]
    simp only [accessAllowed]
    omega
  case neg => -- another access to the registers
    cases w <;> simp [accessAllowed] at hregister ⊢ <;> omega
  case pos => -- IBUF
    rw [Option.isSome_map, bufferIndex_isSome_iff]
    cases w <;> simp [accessAllowed] <;> omega
  case pos => -- OBUF
    rw [Option.isSome_map, bufferIndex_isSome_iff]
    cases w <;> simp [accessAllowed] <;> omega
  case pos => -- a word of CRCROM
    obtain ⟨rfl, haligned⟩ := hrom
    simp only [accessAllowed, Option.isSome_some, true_iff]
    omega
  case neg => -- another access to CRCROM
    cases w <;> simp [accessAllowed] at hrom ⊢ <;> omega
  case neg => -- beyond the map
    cases w <;> simp [accessAllowed] <;> omega

/-- 20_memory.md R61: an access that selects a register has that register's address. -/
theorem busTarget_eq_reg {p : Params} {w : Width} {a : Half} {r : RegName} (h : busTarget p w a = some (.reg r)) :
    a = r.addr := by
  simp only [busTarget] at h
  split_ifs at h with _ hw <;>
    simp only [Option.map_eq_some_iff, Option.some.injEq, reduceCtorEq, and_false, exists_false] at h
  obtain ⟨r', hr, hr'⟩ := h
  cases hr'
  exact BitVec.eq_of_toNat_eq (registerAt_eq_some hw.2 hr).symm

/-- Settles O22: a bus error is an access without a target, and an access with a target is answered. -/
theorem busErrorsChangeNothing : Obligations.BusErrorsChangeNothing := by
  intro s w a d
  rw [← busTarget_isSome_iff s.par w a]
  refine ⟨fun h => ?allowed, fun h => ?refused⟩
  case allowed =>
    obtain ⟨t, ht⟩ := Option.isSome_iff_exists.1 h
    refine ⟨?_, by rw [hostWrite_target ht, acknowledge_resp]⟩
    rw [hostRead_resp, State.busRead, ht]
    dsimp only
    split <;> exact ⟨_, rfl⟩
  case refused =>
    have ht : busTarget s.par.1 w a = none := Option.not_isSome_iff_eq_none.1 h
    refine ⟨?_, hostWrite_busError ht d⟩
    rw [State.hostRead, State.busRead, ht]

/-- State u keeps of s the operands that t does not select. -/
structure KeepsOthers (t : Target) (s u : State) : Prop where
  inLen : t ≠ .reg .inLen → u.inLen = s.inLen
  convIn : t ≠ .reg .convIn → u.convIn = s.convIn
  nameLen : t ≠ .reg .nameLen → u.nameLen = s.nameLen
  name : t ≠ .reg .nameW0 → t ≠ .reg .nameW1 → u.name = s.name
  field : ∀ i, t ≠ .reg (.field i) → u.f.get i = s.f.get i
  mem : (∀ i, t ≠ .ibuf i) → u.mem = s.mem

theorem KeepsOthers.refl (t : Target) (s : State) : KeepsOthers t s s :=
  ⟨fun _ => rfl, fun _ => rfl, fun _ => rfl, fun _ _ => rfl, fun _ _ => rfl, fun _ => rfl⟩

/-- 20_memory.md R68: a write to any target but CMD stores its data in that target's own operand. -/
theorem keepsOthers_writeTarget {t : Target} (hc : t ≠ .reg .cmd) (s : State) (w : Width) (d : Word) :
    KeepsOthers t s (s.writeTarget w t d) := by
  have hrefl := KeepsOthers.refl t s
  cases t with
  | reg r =>
    cases r with
    | cmd => exact absurd rfl hc
    | inLen => exact { hrefl with inLen := fun h => absurd rfl h }
    | convIn => exact { hrefl with convIn := fun h => absurd rfl h }
    | nameLen => exact { hrefl with nameLen := fun h => absurd rfl h }
    | nameW0 => exact { hrefl with name := fun h => absurd rfl h }
    | nameW1 => exact { hrefl with name := fun _ h => absurd rfl h }
    | field j =>
      have hfield (i : Fin 121) (h : Target.reg (.field j) ≠ .reg (.field i)) :
          (s.writeField j d.toInt).f.get i = s.f.get i :=
        writeField_get_other (fun hij : i = j => h (hij ▸ rfl)) s d.toInt
      exact { hrefl with field := hfield }
    | status | outLen | msgLen0 | msgLen1 | msgLen2 | crc | convOut | hdrLo | hdrHi => exact hrefl
  | ibuf i => exact { hrefl with mem := fun h => absurd rfl (h i) }
  | obuf _ | rom _ => exact hrefl

theorem storedBytes_length (w : Width) (d : Word) :
    0 < (storedBytes w d).length ∧ (storedBytes w d).length ≤ if w = .w8 then 1 else 4 := by
  cases w <;> simp [storedBytes]

/-- 20_memory.md R68: a write leaves every byte alone but those at its address. -/
theorem read_writeTarget_outside {s : State} {w : Width} {a : Half} {t : Target} (hc : t ≠ .reg .cmd)
    (ht : busTarget s.par.1 w a = some t) (d : Word) {b : Nat}
    (hb : b < a.toNat ∨ a.toNat + (if w = .w8 then 1 else 4) ≤ b) :
    (s.writeTarget w t d).mem.read b = s.mem.read b := by
  have hlen := storedBytes_length w d
  cases t with
  | ibuf i =>
    have haddr := busTarget_ibuf ht d
    exact read_writeBytes_outside s.mem (0x1000 + i) (storedBytes w d) b (by omega)
  | reg _ | obuf _ | rom _ => rw [(keepsOthers_writeTarget hc s w d).mem (by simp)]

/-- 20_memory.md R61: IBUF lies in 0x1000..0x1FFF. -/
theorem busTarget_ne_ibuf {p : CheckedParams} {w : Width} {a : Half} {t : Target} (ht : busTarget p.1 w a = some t)
    (ha : a.toNat < 0x1000 ∨ 0x2000 ≤ a.toNat) (i : Nat) : t ≠ .ibuf i := by
  rintro rfl
  have haddr := busTarget_ibuf ht 0
  have hlen := storedBytes_length w 0
  have hcap := capacities p
  omega

theorem toNat_field_addr (i : Fin 121) : (RegName.field i).addr.toNat = 0x100 + 4 * i.val := by
  have := i.isLt
  rw [RegName.addr, BitVec.toNat_ofNat, Nat.mod_eq_of_lt (by omega)]

/-- Settles O23: the target is told by the address, and a write to it stores its data there and nowhere else. -/
theorem hostAccessesChangeOnlyTheirTarget : Obligations.HostAccessesChangeOnlyTheirTarget := by
  refine fun s w a d => ⟨⟨_, rfl⟩, fun ha => ⟨_, rfl, ?_⟩⟩
  cases ht : busTarget s.par.1 w a with
  | none =>
    rw [hostWrite_busError ht]
    exact ⟨rfl, fun _ => rfl, fun _ => rfl, fun _ => rfl, fun _ _ => rfl, fun _ _ => rfl, fun _ _ => rfl, fun _ => rfl⟩
  | some t =>
    have other {r : RegName} (hr : a ≠ r.addr) : t ≠ .reg r := fun h => hr (busTarget_eq_reg (h ▸ ht))
    have hc : t ≠ .reg .cmd := other ha
    have hkeeps := keepsOthers_writeTarget hc s w d
    obtain ⟨u, hu, hframe⟩ := writeTarget_frame hc s w d
    rw [hostWrite_target ht]
    refine ⟨?frame, fun h => hkeeps.inLen (other h), fun h => hkeeps.convIn (other h),
      fun h => hkeeps.nameLen (other h), fun h h' => hkeeps.name (other h) (other h'),
      fun i h => hkeeps.field i (other fun e => h (e ▸ toNat_field_addr i)),
      fun b => read_writeTarget_outside hc ht d, fun h => hkeeps.mem (busTarget_ne_ibuf ht h)⟩
    rw [hu, hframe]
    rfl

end Sys2Proof.Machine
end

section
/-! 20_memory.md R63: buffer accesses are little-endian. -/

namespace Sys2Proof.Machine

theorem busTarget_obufWord (p : CheckedParams) (k : Nat) (h : 4 * k + 4 ≤ p.1.outCap) :
    busTarget p.1 .w32 (BitVec.ofNat 16 (0x2000 + 4 * k)) = some (.obuf (4 * k)) := by
  have := capacities p
  simp only [busTarget, BitVec.toNat_ofNat]
  rw [Nat.mod_eq_of_lt (by omega), if_neg (by omega), if_neg (by omega), if_pos (by omega)]
  simp [bufferIndex, h]

theorem readBuffer_word {s : State} {a : Nat} {b0 b1 b2 b3 : Byte} (h0 : s.mem.read a = some b0)
    (h1 : s.mem.read (a + 1) = some b1) (h2 : s.mem.read (a + 2) = some b2) (h3 : s.mem.read (a + 3) = some b3) :
    s.readBuffer .w32 a = wordOfBytes b0 b1 b2 b3 := by
  simp [State.readBuffer, State.hostByte, h0, h1, h2, h3]

theorem hostWrite_ibuf {s : State} {w : Width} {a : Half} {i : Nat} (ht : busTarget s.par.1 w a = some (.ibuf i))
    (d : Word) : (s.hostWrite w a d).mem = s.mem.writeBytes (ibufBase + i) (storedBytes w d) := by
  rw [hostWrite_target ht]
  rfl

/-- 20_memory.md R63: byte j of a word written to IBUF lies at offset j. -/
theorem read_hostWrite_ibufWord {s : State} {k j : Nat} (hk : 4 * k + 4 ≤ s.inCap) (hj : j < 4) (d : Word) :
    (s.hostWrite .w32 (BitVec.ofNat 16 (0x1000 + 4 * k)) d).mem.read (0x1000 + 4 * k + j) =
      some (d.extractLsb' (8 * j) 8) := by
  rw [hostWrite_ibuf (busTarget_ibufWord s.par k hk), ← getElem_le32 d hj]
  exact read_writeBytes_inside _ (ibufBase + 4 * k) (le32 d) j hj

/-- Settles O24: writes store the bytes of `le32`, reads put them together by `wordOfBytes`. -/
theorem bufferWordsAreLittleEndian : Obligations.BufferWordsAreLittleEndian := by
  refine ⟨fun s k d hk => ⟨_, rfl, fun j hj => ?bytes, ?word, fun a ha => ?others⟩,
    fun s k d hk => ⟨_, rfl, ?byte, fun a ha => ?others8⟩, fun s k b0 b1 b2 b3 hb hk h0 h1 h2 h3 => ?obufWord,
    fun s k b hb hk h => busRead_obufByte (.inl hb) hk h, fun s k b hk h => busRead_ibufByte hk h⟩
  case bytes =>
    have hread := read_hostWrite_ibufWord hk hj d
    refine ⟨hread, ?_⟩
    rw [Nat.add_assoc] at hread ⊢
    refine busRead_ibufByte ?_ hread
    rw [State.inCap, hostWrite_par]
    exact Nat.lt_of_lt_of_le (by omega) hk
  case word =>
    have hbyte {j : Nat} (hj : j < 4) := read_hostWrite_ibufWord hk hj d
    have ht := busTarget_ibufWord s.par k hk
    rw [← hostWrite_par s .w32 (BitVec.ofNat 16 (0x1000 + 4 * k)) d] at ht
    rw [busRead_current ht (.inr (.inr (.inl rfl))), State.readTarget]
    exact congrArg BusResp.data ((readBuffer_word (hbyte (j := 0) (by decide)) (hbyte (by decide)) (hbyte (by decide))
      (hbyte (by decide))).trans (wordOfBytes_extractLsb' d))
  case others =>
    rw [hostWrite_ibuf (busTarget_ibufWord s.par k hk)]
    exact read_writeBytes_outside _ _ _ _ ha
  case byte =>
    rw [hostWrite_ibuf (busTarget_ibufByte s.par k hk)]
    exact read_writeBytes_inside _ (ibufBase + k) (storedBytes .w8 d) 0 Nat.zero_lt_one
  case others8 =>
    rw [hostWrite_ibuf (busTarget_ibufByte s.par k hk)]
    exact read_writeBytes_outside _ _ _ _ (Nat.lt_or_gt_of_ne ha)
  case obufWord =>
    rw [busRead_idle hb (busTarget_obufWord s.par k hk)]
    exact congrArg BusResp.data (readBuffer_word h0 h1 h2 h3)

end Sys2Proof.Machine
end

section
/-! 20_memory.md R69, R70: what a command reads, and the one way in which it can stop. -/

namespace Sys2Proof.Machine

/-- The result is a next state. -/
def Answers (r : Result) : Prop := ∃ t, r = .next t

theorem answers_finishWithBytes (s : State) (bs : List Byte) : Answers (finishWithBytes s bs) := by
  unfold finishWithBytes
  split <;> exact ⟨_, rfl⟩

theorem answers_orRaise {α : Type} (s : State) (r : Except ErrorCode α) {k : α → Result} (hk : ∀ a, Answers (k a)) :
    Answers (orRaise s r k) := by
  cases r with
  | error e => exact ⟨_, rfl⟩
  | ok a => exact hk a

/-- A command that reads no IBUF byte always answers. -/
theorem answers_exec {i : Instr} (hi : readsIbuf i = false) (s : State) : Answers (exec i s) := by
  cases i with
  | unpack78 | pack87 | crc32 | decode | frame _ | decodeInbound => cases hi
  | toSigned | toUnsigned => exact ⟨_, rfl⟩
  | encodePayload => exact answers_finishWithBytes s _
  | encodeBurst =>
    change Answers (execEncodeBurst s)
    unfold execEncodeBurst
    split_ifs <;> exact ⟨_, rfl⟩

/-- A command that reads IBUF reads its input first, and always answers once it has it. -/
theorem exec_withInput {i : Instr} (hi : readsIbuf i = true) (s : State) :
    ∃ k : List Byte → Result, exec i s = withInput s k ∧ ∀ b, Answers (k b) := by
  cases i with
  | toSigned | toUnsigned | encodePayload | encodeBurst => cases hi
  | unpack78 | pack87 => exact ⟨_, rfl, fun _ => answers_orRaise s _ (answers_finishWithBytes s)⟩
  | crc32 => exact ⟨_, rfl, fun _ => ⟨_, rfl⟩⟩
  | decode | decodeInbound => exact ⟨_, rfl, fun _ => answers_orRaise s _ fun _ => ⟨_, rfl⟩⟩
  | frame seq => exact ⟨_, rfl, fun _ => answers_finishWithBytes s _⟩

theorem readIbuf_eq_none (s : State) (n : Nat) : s.readIbuf n = none ↔ ∃ k, k < n ∧ s.mem.read (ibufBase + k) = none :=
  readBytes_eq_none

/-- Settles O29: only the read of the input can stop, and it does so when a byte is unwritten. -/
theorem unwrittenInputIsTheOnlyFault : Obligations.UnwrittenInputIsTheOnlyFault := by
  intro i s
  cases hi : readsIbuf i with
  | false =>
    obtain ⟨t, ht⟩ := answers_exec hi s
    simp [ht]
  | true =>
    obtain ⟨k, hk, hanswers⟩ := exec_withInput hi s
    rw [hk]
    rcases withInput_cases s k with ⟨hlong, h⟩ | ⟨hlen, hnone, h⟩ | ⟨b, hb, h⟩
    · rw [h]
      refine ⟨⟨nofun, fun ⟨_, hlen, _⟩ => by omega⟩, nofun⟩
    · rw [h]
      exact ⟨⟨fun _ => ⟨rfl, hlen, (readIbuf_eq_none s _).1 hnone⟩, fun _ => rfl⟩, nofun⟩
    · obtain ⟨t, ht⟩ := hanswers b
      rw [h, ht]
      refine ⟨⟨nofun, fun ⟨_, _, hnone⟩ => ?_⟩, nofun⟩
      obtain ⟨-, hread⟩ := (hasInput_iff s b).1 hb
      cases hread.symm.trans ((readIbuf_eq_none s _).2 hnone)

end Sys2Proof.Machine
end

section
/-! 20_memory.md R69: an outcome depends on the registers and on IBUF[0..IN_LEN), and on no other byte of memory, no event
of the host and no latency. -/

namespace Sys2Proof.Machine

/-- s with memory, the host's stream, the last response, the latency and the draw counter taken from v: every register is
that of s. -/
def State.withSurroundings (s v : State) : State :=
  { s with mem := v.mem, host := v.host, resp := v.resp, wait := v.wait, draws := v.draws }

/-- The outcome o of command i in s and the outcome o' in other surroundings v: the same fault, or next states with the
same registers and the same result bytes, which differ in memory only if the surroundings did. -/
inductive SameOutcome (i : Instr) (s v : State) : Result → Result → Prop
  | fault (r : Fault) : SameOutcome i s v (.fault r) (.fault r)
  | next (t : State) (m : Memory) (same : v.mem = s.mem → m = t.mem)
      (obuf : writesObuf i = true → t.status.err = false →
        ∀ k, k < t.outLen.toNat → m.read (obufBase + k) = t.mem.read (obufBase + k)) :
      SameOutcome i s v (.next t) (.next (t.withSurroundings { v with mem := m }))

theorem SameOutcome.of_fault {i : Instr} {s v : State} {o o' : Result} (h : SameOutcome i s v o o') {r : Fault}
    (ho : o = .fault r) : o' = .fault r := by
  cases h with
  | fault r' => exact ho
  | next t m same obuf => cases ho

theorem SameOutcome.of_next {i : Instr} {s v : State} {o o' : Result} (h : SameOutcome i s v o o') {t : State}
    (ho : o = .next t) :
    ∃ m : Memory, o' = .next (t.withSurroundings { v with mem := m }) ∧ (v.mem = s.mem → m = t.mem) ∧
      (writesObuf i = true → t.status.err = false →
        ∀ k, k < t.outLen.toNat → m.read (obufBase + k) = t.mem.read (obufBase + k)) := by
  cases h with
  | fault r => cases ho
  | next t' m same obuf =>
    cases ho
    exact ⟨m, rfl, same, obuf⟩

/-- A write hides what was in memory before, at the bytes it writes. -/
theorem read_writeBytes_congr {m n : Memory} {a x : Nat} {bs : List Byte}
    (h : ¬ (a ≤ x ∧ x < a + bs.length) → m.read x = n.read x) :
    (m.writeBytes a bs).read x = (n.writeBytes a bs).read x := by
  rw [read_writeBytes, read_writeBytes]
  split
  · rfl
  · exact h ‹_›

theorem burst_fits {s : State} (h : ¬ (s.nameLen.toNat < 4 ∨ 8 < s.nameLen.toNat)) :
    s.burst.m1.length + s.burst.m2.length + s.burst.m3.length ≤ s.outCap :=
  (burst_length_le s (by omega)).trans (outCap_ge s)

theorem exec_encodeBurst_nameLength {s : State} (h : s.nameLen.toNat < 4 ∨ 8 < s.nameLen.toNat) :
    exec .encodeBurst s = .next (s.raiseError .nameLength) :=
  if_pos h

/-- 45_framer.md R210, 00_scope.md R10: a burst of a name of 4 to 8 characters always fits OBUF. -/
theorem exec_encodeBurst {s : State} (h : ¬ (s.nameLen.toNat < 4 ∨ 8 < s.nameLen.toNat)) :
    exec .encodeBurst s = .next (s.storeBurst s.burst).complete :=
  (if_neg h).trans (if_neg (Nat.not_lt.2 (burst_fits h)))

section Surroundings

variable {i : Instr} (s v : State)

theorem sameOutcome_raiseError (e : ErrorCode) :
    SameOutcome i s v (.next (s.raiseError e)) (.next ((s.withSurroundings v).raiseError e)) :=
  .next (s.raiseError e) v.mem id fun _ => nofun

theorem sameOutcome_storeResult {bs : List Byte} (hfit : bs.length ≤ s.outCap) :
    SameOutcome i s v (.next (s.storeResult bs).complete) (.next ((s.withSurroundings v).storeResult bs).complete) := by
  refine .next (s.storeResult bs).complete (v.mem.writeBytes obufBase bs) (fun h => by rw [h]; rfl) fun _ _ k hk => ?_
  rw [complete_outLen, storeResult_outLen, toNat_outLen hfit] at hk
  exact read_writeBytes_congr fun hout => absurd ⟨Nat.le_add_right _ _, Nat.add_lt_add_left hk _⟩ hout

theorem sameOutcome_finishWithBytes (bs : List Byte) :
    SameOutcome i s v (finishWithBytes s bs) (finishWithBytes (s.withSurroundings v) bs) := by
  by_cases h : bs.length ≤ s.outCap
  · rw [finishWithBytes_fits s bs h, finishWithBytes_fits (s.withSurroundings v) bs h]
    exact sameOutcome_storeResult s v h
  · have hlong := Nat.not_le.1 h
    rw [finishWithBytes_tooLong s bs hlong, finishWithBytes_tooLong (s.withSurroundings v) bs hlong]
    exact sameOutcome_raiseError s v .bufferOverflow

theorem sameOutcome_storeBurst {b : Burst} (hfit : b.m1.length + b.m2.length + b.m3.length ≤ s.outCap) :
    SameOutcome i s v (.next (s.storeBurst b).complete) (.next ((s.withSurroundings v).storeBurst b).complete) := by
  refine .next (s.storeBurst b).complete ((s.withSurroundings v).storeBurst b).mem (fun h => ?_) fun _ _ k hk => ?_
  · simp [State.withSurroundings, State.storeBurst, h]
  · change k < (BitVec.ofNat 16 (b.m1.length + b.m2.length + b.m3.length)).toNat at hk
    rw [toNat_outLen hfit] at hk
    exact read_writeBytes_congr fun h3 => read_writeBytes_congr fun h2 => read_writeBytes_congr fun h1 => by omega

theorem sameOutcome_orRaise {α : Type} (r : Except ErrorCode α) {k k' : α → Result}
    (hk : ∀ a, SameOutcome i s v (k a) (k' a)) :
    SameOutcome i s v (orRaise s r k) (orRaise (s.withSurroundings v) r k') := by
  cases r with
  | error e => exact sameOutcome_raiseError s v e
  | ok a => exact hk a

/-- A command that stores nothing in OBUF leaves memory alone. -/
theorem sameOutcome_complete (hi : writesObuf i = false) {u : State} (hu : u.mem = s.mem) :
    SameOutcome i s v (.next u.complete) (.next (u.withSurroundings v).complete) :=
  .next u.complete v.mem (fun h => h.trans hu.symm) fun h => by rw [hi] at h; cases h

variable {s v} (hin : ∀ k, k < s.inLen.toNat → v.mem.read (ibufBase + k) = s.mem.read (ibufBase + k))

include hin

theorem sameOutcome_withInput {k k' : List Byte → Result} (hk : ∀ b, SameOutcome i s v (k b) (k' b)) :
    SameOutcome i s v (withInput s k) (withInput (s.withSurroundings v) k') := by
  have hread : (s.withSurroundings v).readIbuf s.inLen.toNat = s.readIbuf s.inLen.toNat := readBytes_congr hin
  rcases withInput_cases s k with ⟨hlong, h⟩ | ⟨hlen, hnone, h⟩ | ⟨b, hb, h⟩
  · rw [h, withInput_tooLong (s.withSurroundings v) k' hlong]
    exact sameOutcome_raiseError s v .lengthRange
  · rw [h, withInput_unwritten (s.withSurroundings v) k' hlen (hread.trans hnone)]
    exact .fault .unwrittenInput
  · obtain ⟨hlen, hsome⟩ := (hasInput_iff s b).1 hb
    rw [h, withInput_hasInput k' ((hasInput_iff (s.withSurroundings v) b).2 ⟨hlen, hread.trans hsome⟩)]
    exact hk b

/-- 20_memory.md R69: a command reads registers and IBUF[0..IN_LEN) only. -/
theorem sameOutcome_exec (i : Instr) : SameOutcome i s v (exec i s) (exec i (s.withSurroundings v)) := by
  cases i with
  | unpack78 | pack87 =>
    exact sameOutcome_withInput hin fun b => sameOutcome_orRaise s v _ (sameOutcome_finishWithBytes s v)
  | crc32 => exact sameOutcome_withInput hin fun b => sameOutcome_complete s v rfl (u := { s with crc := crc32 b }) rfl
  | toSigned => exact sameOutcome_complete s v rfl (u := { s with convOut := _ }) rfl
  | toUnsigned => exact sameOutcome_complete s v rfl (u := { s with convOut := _ }) rfl
  | decode | decodeInbound =>
    exact sameOutcome_withInput hin fun b => sameOutcome_orRaise s v _ fun p =>
      sameOutcome_complete s v rfl (u := s.setPatch p) rfl
  | encodePayload => exact sameOutcome_finishWithBytes s v _
  | frame seq => exact sameOutcome_withInput hin fun b => sameOutcome_finishWithBytes s v _
  | encodeBurst =>
    by_cases hname : s.nameLen.toNat < 4 ∨ 8 < s.nameLen.toNat
    · rw [exec_encodeBurst_nameLength hname, exec_encodeBurst_nameLength (s := s.withSurroundings v) hname]
      exact sameOutcome_raiseError s v .nameLength
    · rw [exec_encodeBurst hname, exec_encodeBurst (s := s.withSurroundings v) hname]
      exact sameOutcome_storeBurst s v (burst_fits hname)

end Surroundings

/-- 10_state.md R22: of its surroundings a command changes memory only. -/
theorem exec_keepsSurroundings {i : Instr} {s t : State} (h : exec i s = .next t) (m : Memory) :
    t.withSurroundings { s with mem := m } = { t with mem := m } := by
  obtain ⟨hframe, -, -⟩ := commandsWriteOnlyTheirResults i s t h
  rw [hframe]
  cases i <;> rfl

/-- Settles O33: the same registers with other memory are one state in two surroundings, and its outcome is the same. -/
theorem bytesBeyondTheInputDoNotMatter : Obligations.BytesBeyondTheInputDoNotMatter := by
  intro i s m hin
  have hsame := sameOutcome_exec (s := s) (v := { s with mem := m }) hin i
  refine ⟨fun r hr => hsame.of_fault hr, fun t ht => ?_⟩
  obtain ⟨m', hu, -, hobuf⟩ := hsame.of_next ht
  exact ⟨_, hu, exec_keepsSurroundings ht m', fun hi _ herr => hobuf hi herr⟩

end Sys2Proof.Machine
end

section
/-! 20_memory.md R71, 30_encoding.md R88, R89: a host that writes a command and polls. -/

namespace Sys2Proof

theorem seqField_frame (seq : Byte) : seqField (encodeCommand (.frame seq)) = seq := by
  simp only [seqField, encodeCommand]
  rw [BitVec.extractLsb'_append_eq_of_le (by decide)]
  exact BitVec.extractLsb'_append_eq_right

theorem decodeCommand_encodeCommand (i : Instr) : decodeCommand (encodeCommand i) = .ok i := by
  cases i with
  | frame seq =>
    obtain ⟨hop, hclear, -⟩ := Laws.OpcodeField.frame seq
    rw [decodeCommand, hop, hclear, seqField_frame]
    rfl
  | unpack78 | pack87 | crc32 | toSigned | toUnsigned | decode | encodePayload | encodeBurst | decodeInbound => rfl

end Sys2Proof

namespace Sys2Proof.Machine

theorem exec_idle {i : Instr} {s t : State} (h : exec i s = .next t) : t.status.busy = false := by
  rcases exec_next h with ⟨e, -, -, rfl⟩ | ⟨u, -, rfl⟩ <;> rfl

theorem exec_host {i : Instr} {s t : State} (h : exec i s = .next t) : t.host = s.host :=
  (congrArg State.host (exec_keepsSurroundings h t.mem)).symm

/-- State s is the accepted state c a while later: the host polls, and only the model's own fields have changed. -/
def Polling (c s : State) : Prop := s = { c with host := [.poll], resp := s.resp, wait := s.wait, draws := s.draws }

theorem Polling.host {c s : State} (h : Polling c s) : s.host = [.poll] := by rw [h]

/-- The command's meaning, taken while the host polls, is its meaning in the accepted state. -/
theorem Polling.exec_next {c s u : State} (h : Polling c s) {i : Instr} (hu : exec i c = .next u) :
    ∃ v, exec i s = .next v ∧ Polling u v ∧ v.wait = s.wait := by
  have hmem : s.mem = c.mem := by rw [h]
  have hs : c.withSurroundings s = s := by rw [h]; rfl
  obtain ⟨m, hv, hm, -⟩ := (sameOutcome_exec (v := s) (fun _ _ => by rw [hmem]) i).of_next hu
  rw [hs, hm hmem] at hv
  refine ⟨_, hv, ?_, rfl⟩
  rw [Polling, State.withSurroundings, h.host]

/-- A poll that reads BUSY = 1 is repeated. -/
theorem Polling.busCycle {c s : State} (h : Polling c s) (hb : c.status.busy = true) :
    Polling c s.busCycle ∧ s.busCycle.wait = s.wait - 1 := by
  unfold Polling at h ⊢
  rw [busCycle_cons (op := .poll) (rest := []) (by rw [h]), h]
  simp only [State.hostEvent, hb, if_true]
  exact ⟨rfl, rfl⟩

/-- A poll that reads BUSY = 0 ends, with the STATUS it read as the response. -/
theorem Polling.busCycle_idle {u v : State} (h : Polling u v) (hb : u.status.busy = false) (hhost : u.host = []) :
    v.busCycle = { u with resp := some (.data u.status.word), wait := v.wait - 1, draws := v.busCycle.draws } := by
  rw [busCycle_cons h.host, h, ← hhost]
  simp only [State.hostEvent, hb, Bool.false_eq_true, if_false]
  rw [State.hostRead, busRead_constant _ (r := .status) fun _ => rfl]
  rfl

section Accepted

variable {c u : State} {i : Instr} (hb : c.status.busy = true) (hhost : c.host = []) (hz : c.hazard = false)
variable (hd : decodeCommand c.pend = .ok i) (hu : exec i c = .next u)

include hb hhost hz hd hu

/-- When the latency is over, the engine's step and one more poll deliver the command's result. -/
theorem run_lastPoll {s : State} (h : Polling c s) (hw : s.wait = 0) :
    ∃ t, Sys2Proof.core.run 2 s = .next t ∧
      t = { u with resp := some (.data u.status.word), wait := 0, draws := t.draws } := by
  obtain ⟨v, hv, hpolling, hvw⟩ := h.exec_next hu
  have hengine : Sys2Proof.core.step s = .next v :=
    (stepRunsTheDecodedCommand s i (by rw [h]; exact hb) hw (by rw [h]; exact hz) (by rw [h]; exact hd)).trans hv
  have hpoll : Sys2Proof.core.step v = .next v.busCycle := step_busCycle (by simp [exec_idle hv])
  refine ⟨v.busCycle, (run_step hengine 1).trans (run_step hpoll 0), ?_⟩
  have hlast := hpolling.busCycle_idle (exec_idle hu) ((exec_host hu).trans hhost)
  rwa [hvw, hw] at hlast

/-- The polls go on for the latency that is left. -/
theorem run_polling {s : State} (h : Polling c s) :
    ∃ n t, Sys2Proof.core.run n s = .next t ∧
      t = { u with resp := some (.data u.status.word), wait := 0, draws := t.draws } := by
  induction hn : s.wait generalizing s with
  | zero => exact ⟨2, run_lastPoll hb hhost hz hd hu h hn⟩
  | succ n ih =>
    obtain ⟨hpolling, hwait⟩ := h.busCycle hb
    obtain ⟨k, t, hrun, ht⟩ := ih hpolling (by rw [hwait, hn]; rfl)
    have hstep : Sys2Proof.core.step s = .next s.busCycle := step_busCycle (by simp [hn])
    exact ⟨k + 1, t, (run_step hstep k).trans hrun, ht⟩

end Accepted

/-- Settles O19: the command word is accepted, the poll repeats for the latency, and then reads the command's STATUS. -/
theorem polledCommandDeliversItsResult : Obligations.PolledCommandDeliversItsResult := by
  intro s u i hb hhost hu
  have hdone := run_polling (s := s.busCycle) rfl rfl rfl (decodeCommand_encodeCommand i) hu
  obtain ⟨n, t, hrun, ht⟩ := hdone <| by
    rw [Polling, busCycle_cmdWrite hhost, cmdWrite_idle (by exact hb)]
    rfl
  exact ⟨n + 1, t, (run_step (step_busCycle (by simp [hb])) n).trans hrun, ht⟩

end Sys2Proof.Machine
end

section
/-! 30_encoding.md R80, R83, R86: the decoder on each kind of opcode, and decoding as the inverse of encoding. -/

namespace Sys2Proof

/-- The format C0 commands are all but FRAME, each at its own opcode (R83). -/
theorem c0Opcode_eq_some {op : Byte} {i : Instr} : c0Opcode op = some i ↔ op = opcodeOf i ∧ op ≠ 0x08 := by
  constructor
  · intro h
    unfold c0Opcode at h
    split at h
    case h_10 => cases h
    all_goals
      next hop =>
      cases h
      refine ⟨BitVec.eq_of_toNat_eq hop, ?_⟩
      rintro rfl
      exact absurd hop (by decide)
  · rintro ⟨rfl, hframe⟩
    cases i with
    | frame seq => exact absurd rfl hframe
    | _ => rfl

theorem decodeCommand_frame {w : Word} (hop : opField w = 0x08) :
    decodeCommand w = if c1ReservedClear w then .ok (.frame (seqField w)) else .error (.reservedBits (opField w)) := by
  rw [decodeCommand, if_pos hop]

theorem decodeCommand_c0 {w : Word} {i : Instr} (h : c0Opcode (opField w) = some i) :
    decodeCommand w = if c0ReservedClear w then .ok i else .error (.reservedBits (opField w)) := by
  rw [decodeCommand, if_neg (c0Opcode_eq_some.mp h).2, h]

theorem decodeCommand_reserved {w : Word} (hop : opField w ≠ 0x08) (h : c0Opcode (opField w) = none) :
    decodeCommand w = .error (.reservedOpcode (opField w)) := by
  rw [decodeCommand, if_neg hop, h]

/-- Format C1 (R80): a word with clear reserved bits is its SEQ and OP fields. -/
theorem word_of_c1ReservedClear {w : Word} (h : c1ReservedClear w = true) : 0#16 ++ seqField w ++ opField w = w := by
  have hclear : w.extractLsb' 16 16 = 0#16 := by simpa [c1ReservedClear] using h
  have upper : w.extractLsb' 16 16 ++ seqField w = w.extractLsb' 8 24 :=
    BitVec.extractLsb'_append_extractLsb'_eq_extractLsb' rfl
  have whole : w.extractLsb' 8 24 ++ opField w = w.extractLsb' 0 32 :=
    BitVec.extractLsb'_append_extractLsb'_eq_extractLsb' rfl
  rw [← hclear, upper, whole]
  exact BitVec.extractLsb'_eq_self

/-- Format C0 (R80): a word with clear reserved bits is its OP field. -/
theorem word_of_c0ReservedClear {w : Word} (h : c0ReservedClear w = true) : 0#24 ++ opField w = w := by
  have hclear : w.extractLsb' 8 24 = 0#24 := by simpa [c0ReservedClear] using h
  have whole : w.extractLsb' 8 24 ++ opField w = w.extractLsb' 0 32 :=
    BitVec.extractLsb'_append_extractLsb'_eq_extractLsb' rfl
  rw [← hclear, whole]
  exact BitVec.extractLsb'_eq_self

theorem encodeCommand_c0 {i : Instr} (h : opcodeOf i ≠ 0x08) : encodeCommand i = 0#24 ++ opcodeOf i := by
  cases i with
  | frame seq => exact absurd rfl h
  | _ => rfl

/-- R86: the decoder gives a command only for that command's own word. -/
theorem encodeCommand_of_decodeCommand {w : Word} {i : Instr} (h : decodeCommand w = .ok i) : encodeCommand i = w := by
  by_cases hop : opField w = 0x08
  · rw [decodeCommand_frame hop] at h
    split at h
    next hclear =>
      cases h
      calc encodeCommand (.frame (seqField w))
        _ = 0#16 ++ seqField w ++ opField w := by rw [hop]; rfl
        _ = w := word_of_c1ReservedClear hclear
    next => cases h
  · cases hc : c0Opcode (opField w) with
    | none => rw [decodeCommand_reserved hop hc] at h; cases h
    | some j =>
      rw [decodeCommand_c0 hc] at h
      split at h
      next hclear =>
        cases h
        have hcode : opField w = opcodeOf i := (c0Opcode_eq_some.mp hc).1
        calc encodeCommand i
          _ = 0#24 ++ opField w := by rw [hcode]; exact encodeCommand_c0 (hcode ▸ hop)
          _ = w := word_of_c0ReservedClear hclear
      next => cases h

/-- Settles O1: decoding an encoded command gives it back, and a decoded word is its command's encoding. -/
theorem decodeAcceptsExactlyTheEncodings : Obligations.DecodeAcceptsExactlyTheEncodings :=
  fun _ i => ⟨fun h => (encodeCommand_of_decodeCommand h).symm, fun h => h ▸ decodeCommand_encodeCommand i⟩

/-- Settles O3: each word is the encoding of its command. -/
theorem specCommandWordsDecode : Obligations.SpecCommandWordsDecode :=
  ⟨decodeCommand_encodeCommand .unpack78, decodeCommand_encodeCommand .pack87, decodeCommand_encodeCommand .crc32,
    decodeCommand_encodeCommand .toUnsigned, decodeCommand_encodeCommand .decode,
    decodeCommand_encodeCommand (.frame 0x01), decodeCommand_encodeCommand (.frame 0xFF),
    decodeCommand_encodeCommand .decodeInbound⟩

end Sys2Proof
end

section
/-! 30_encoding.md R84, 60_exceptions.md R242: which words are illegal, and what becomes of one. -/

namespace Sys2Proof

theorem opField_toNat (w : Word) : (opField w).toNat = w.toNat % 256 := by
  simp [opField, BitVec.extractLsb'_toNat]

/-- A field that reaches the word's top bit is 0 exactly when the word is below the field's place value. -/
theorem extractLsb'_top_eq_zero (w : Word) {k n : Nat} (hn : k + n = 32) :
    w.extractLsb' k n = 0#n ↔ w.toNat / 2 ^ k = 0 := by
  have hlt : w.toNat / 2 ^ k < 2 ^ n := by
    rw [Nat.div_lt_iff_lt_mul (Nat.two_pow_pos k), ← Nat.pow_add, Nat.add_comm, hn]
    exact w.isLt
  rw [← BitVec.toNat_inj, BitVec.extractLsb'_toNat, Nat.shiftRight_eq_div_pow, Nat.mod_eq_of_lt hlt]
  simp

theorem c0ReservedClear_eq_false (w : Word) : c0ReservedClear w = false ↔ w.toNat / 256 ≠ 0 :=
  beq_eq_false_iff_ne.trans (extractLsb'_top_eq_zero w rfl).not

theorem c1ReservedClear_eq_false (w : Word) : c1ReservedClear w = false ↔ w.toNat / 65536 ≠ 0 :=
  beq_eq_false_iff_ne.trans (extractLsb'_top_eq_zero w rfl).not

theorem c0Opcode_eq_none {op : Byte} (hframe : op ≠ 0x08) : c0Opcode op = none ↔ op.toNat = 0 ∨ 0x0B ≤ op.toNat := by
  have hne : op.toNat ≠ 8 := fun h => hframe (BitVec.eq_of_toNat_eq h)
  unfold c0Opcode
  split
  case h_10 => simp only [imp_false, true_iff] at *; omega
  all_goals simp only [reduceCtorEq, false_iff]; omega

theorem decodeCommand_frame_error {w : Word} (hop : opField w = 0x08) :
    (∃ e, decodeCommand w = .error e) ↔ c1ReservedClear w = false := by
  rw [decodeCommand_frame hop]
  cases c1ReservedClear w <;> simp

theorem decodeCommand_c0_error {w : Word} (hop : opField w ≠ 0x08) :
    (∃ e, decodeCommand w = .error e) ↔ c0Opcode (opField w) = none ∨ c0ReservedClear w = false := by
  cases hc : c0Opcode (opField w) with
  | none => simp [decodeCommand_reserved hop hc]
  | some i =>
    rw [decodeCommand_c0 hc]
    cases c0ReservedClear w <;> simp

namespace Machine

/-- 30_encoding.md R84: the decoder rejects exactly the illegal words. -/
theorem decodeCommand_error_iff (w : Word) : (∃ e, decodeCommand w = .error e) ↔ illegalWord w := by
  have hw : opField w = 0x08 ↔ w.toNat % 256 = 8 := by rw [← opField_toNat]; exact BitVec.toNat_inj.symm
  unfold illegalWord
  by_cases hop : opField w = 0x08
  · have h8 := hw.mp hop
    rw [decodeCommand_frame_error hop, c1ReservedClear_eq_false]
    omega
  · have h8 := mt hw.mpr hop
    rw [decodeCommand_c0_error hop, c0Opcode_eq_none hop, c0ReservedClear_eq_false, opField_toNat]
    omega

/-- Settles O2: acceptance does not look at the word, and the engine rejects an illegal one before any operand is read. -/
theorem illegalWordsAreAcceptedAndFail : Obligations.IllegalWordsAreAcceptedAndFail := by
  refine ⟨decodeCommand_error_iff, fun s w _ hb => ?_, fun s hb hw hill => ?_⟩
  · have haccept : s.hostWrite .w32 0x0000 w = (s.accept w).acknowledge false :=
      cmdWrite_idle hb w ▸ hostWrite_cmd s w
    rw [haccept]
    exact ⟨rfl, rfl⟩
  · obtain ⟨e, he⟩ := (decodeCommand_error_iff s.pend).mpr hill
    rw [step_engine hb hw, engineStep_illegal he]
    rfl

end Machine

end Sys2Proof
end

section
/-! 41_bitpacker.md R101: the bits that packing moves, bit 7 of the data bytes and the bits of the mask byte. -/

namespace Sys2Proof

@[simp] theorem getLsbD_topBit (k : Nat) : (0x80#8).getLsbD k = decide (k = 7) := by
  have h : 0x80#8 = BitVec.twoPow 8 7 := rfl
  rw [h, BitVec.getLsbD_twoPow]
  simp [eq_comm]

@[simp] theorem getLsbD_lowBits (k : Nat) : (0x7F#8).getLsbD k = decide (k < 7) := by
  have h : (0x7F#8).getLsbD k = (decide (k < 8) && (2 ^ 7 - 1).testBit k) := BitVec.getLsbD_ofNat 8 (2 ^ 7 - 1) k
  rw [h, Nat.testBit_two_pow_sub_one, ← Bool.decide_and]
  exact decide_eq_decide.2 (by omega)

/-- Clearing bit 7 and then setting it from a copy gives the byte back. -/
theorem restore_topBit (c : Byte) : (if c.getLsbD 7 then (c &&& 0x7F) ||| 0x80 else c &&& 0x7F) = c := by
  refine BitVec.eq_of_getLsbD_eq fun k hk => ?_
  by_cases h7 : k = 7
  · subst h7
    cases hc : c.getLsbD 7 <;> simp
  · have hlow : k < 7 := by omega
    cases c.getLsbD 7 <;> simp [h7, hlow]

/-- Setting bit 7 of a byte that lacks it and then clearing it gives the byte back. -/
theorem clear_topBit {c : Byte} (hc : c.getLsbD 7 = false) (m : Bool) :
    (if m then c ||| 0x80 else c) &&& 0x7F = c := by
  refine BitVec.eq_of_getLsbD_eq fun k hk => ?_
  by_cases h7 : k = 7
  · subst h7
    rw [BitVec.getLsbD_and, hc]
    simp
  · have hlow : k < 7 := by omega
    cases m <;> simp [h7, hlow]

theorem topBit_of_set {c : Byte} (hc : c.getLsbD 7 = false) (m : Bool) :
    (if m then c ||| 0x80 else c).getLsbD 7 = m := by
  cases m with
  | false => exact hc
  | true => simp

/-- 41_bitpacker.md R107 as one bit of the mask: position n takes mask bit 6 - n. -/
theorem unpackByte_eq (m d : Byte) {n : Nat} (hn : n < 7) :
    unpackByte m n d = if m.getLsbD (6 - n) then d ||| 0x80 else d := by
  have hbit : (m <<< (n + 1)).getLsbD 7 = m.getLsbD (6 - n) := by
    rw [BitVec.getLsbD_shiftLeft, show 7 - (n + 1) = 6 - n by omega]
    simp [show ¬ 7 < n + 1 by omega]
  have htop : (m <<< (n + 1)) &&& 0x80 = if (m <<< (n + 1)).getLsbD 7 then 0x80 else 0 :=
    BitVec.and_twoPow (m <<< (n + 1)) 7
  rw [unpackByte, htop, hbit]
  cases m.getLsbD (6 - n) <;> simp

/-- 41_bitpacker.md R112: bit i of a mask is bit 7 of the byte at the position that i stands for. -/
theorem getLsbD_packMask (j : Nat) (cs : List Byte) (i : Nat) :
    (packMask j cs).getLsbD i = (decide (i + j ≤ 6) && (cs.getD (6 - (i + j)) 0).getLsbD 7) := by
  induction cs generalizing j with
  | nil => simp [packMask]
  | cons c cs ih =>
    have hc : ((c &&& 0x80) >>> (j + 1)).getLsbD i = (decide (i + j = 6) && c.getLsbD 7) := by
      rw [BitVec.getLsbD_ushiftRight, BitVec.getLsbD_and, BitVec.ofNat_eq_ofNat, getLsbD_topBit]
      by_cases h : i + j = 6
      · simp [h, show j + 1 + i = 7 by omega]
      · simp [h, show ¬ j + 1 + i = 7 by omega]
    rw [packMask, BitVec.getLsbD_or, hc, ih]
    rcases Nat.lt_trichotomy (i + j) 6 with h | h | h
    · rw [show 6 - (i + j) = 6 - (i + (j + 1)) + 1 by omega]
      simp [show i + j ≠ 6 by omega, show i + (j + 1) ≤ 6 by omega, show i + j ≤ 6 by omega]
    · simp [h, show ¬ i + (j + 1) ≤ 6 by omega]
    · simp [show i + j ≠ 6 by omega, show ¬ i + (j + 1) ≤ 6 by omega, show ¬ i + j ≤ 6 by omega]

namespace Machine

theorem midiSafe_iff (b : Byte) : midiSafe b ↔ b.getLsbD 7 = false := by
  have hmsb : b.getLsbD 7 = decide (128 ≤ b.toNat) := (BitVec.msb_eq_getLsbD_last b).symm.trans (BitVec.msb_eq_decide b)
  rw [hmsb, decide_eq_false_iff_not]
  exact ⟨fun h => by omega, fun h => by omega⟩

end Machine

end Sys2Proof
end

section
/-! 41_bitpacker.md R105, R107, R111, R112: a packed body and its unpacked bytes, group by group. -/

namespace Sys2Proof

theorem getD_drop (xs : List Byte) (a b : Nat) : (xs.drop a).getD b 0 = xs.getD (a + b) 0 := by
  simp [List.getD_eq_getElem?_getD]

theorem packBody_step {d : List Byte} (hd : d ≠ []) :
    packBody d = packChunk (d.take 7) ++ packBody (d.drop 7) := by
  rw [packBody, chunks_step 7 (by decide) d hd, List.flatMap_cons, ← packBody]

theorem unpackBody_step {p : List Byte} (hp : p ≠ []) :
    unpackBody p = unpackGroup (p.take 8) ++ unpackBody (p.drop 8) := by
  rw [unpackBody, chunks_step 8 (by decide) p hp, List.flatMap_cons, ← unpackBody]

@[simp] theorem unpackGroup_length (g : List Byte) : (unpackGroup g).length = g.length - 1 := by
  cases g with
  | nil => rfl
  | cons m ds => simp [unpackGroup]

/-- One mask byte in each group of eight is not a data byte. -/
@[simp] theorem unpackBody_length (p : List Byte) : (unpackBody p).length = p.length - (p.length + 7) / 8 := by
  induction p using chunks_induction 8 (by decide) with
  | nil => rfl
  | step p hp ih =>
    have hpos := List.length_pos_iff.2 hp
    simp only [unpackBody_step hp, List.length_append, unpackGroup_length, List.length_take, ih, List.length_drop]
    omega

/-- A function that turns groups of c bytes into groups of a bytes, one at a time, does so from every group on. -/
theorem drop_groups {f : List Byte → List Byte} {a c : Nat} (hf : ∀ xs, (f xs).drop a = f (xs.drop c)) (xs : List Byte)
    (g : Nat) : (f xs).drop (a * g) = f (xs.drop (c * g)) := by
  induction g generalizing xs with
  | zero => rfl
  | succ g ih =>
    rw [Nat.mul_succ, Nat.mul_succ, Nat.add_comm _ a, Nat.add_comm _ c, ← List.drop_drop, hf, ih, List.drop_drop]

theorem packBody_drop (d : List Byte) (g : Nat) : (packBody d).drop (8 * g) = packBody (d.drop (7 * g)) := by
  refine drop_groups (fun d => ?_) d g
  by_cases h : d.length ≤ 7
  · rw [List.drop_eq_nil_of_le h, List.drop_eq_nil_of_le (by rw [packBody_length]; omega)]
    rfl
  · rw [packBody_step (by rintro rfl; simp at h), List.drop_left' (by simp; omega)]

theorem unpackBody_drop (p : List Byte) (g : Nat) : (unpackBody p).drop (7 * g) = unpackBody (p.drop (8 * g)) := by
  refine drop_groups (fun p => ?_) p g
  by_cases h : p.length ≤ 8
  · rw [List.drop_eq_nil_of_le h, List.drop_eq_nil_of_le (by rw [unpackBody_length]; omega)]
    rfl
  · rw [unpackBody_step (by rintro rfl; simp at h), List.drop_left' (by simp; omega)]

theorem packBody_mask {d : List Byte} (hd : d ≠ []) : (packBody d).getD 0 0 = packMask 0 (d.take 7) := by
  rw [packBody_step hd]
  rfl

theorem packBody_data {d : List Byte} {n : Nat} (hn : n < 7) (h : n < d.length) :
    (packBody d).getD (1 + n) 0 = d.getD n 0 &&& 0x7F := by
  rw [packBody_step (List.length_pos_iff.1 (by omega)), List.getD_append _ _ _ _ (by simp; omega)]
  simp [packChunk, Nat.add_comm 1 n, List.getD_eq_getElem?_getD, hn, h]

theorem unpackData_getElem (m : Byte) (ds : List Byte) (j n : Nat) (h : n < (unpackData m j ds).length) :
    (unpackData m j ds)[n] = unpackByte m (j + n) (ds[n]'(by simpa using h)) := by
  induction ds generalizing j n with
  | nil => simp [unpackData] at h
  | cons d ds ih =>
    cases n with
    | zero => rfl
    | succ n => simp [unpackData, ih, Nat.add_comm 1 n, Nat.add_assoc]

theorem unpackBody_data {p : List Byte} {n : Nat} (hn : n < 7) (h : 1 + n < p.length) :
    (unpackBody p).getD n 0 = unpackByte (p.getD 0 0) n (p.getD (1 + n) 0) := by
  rw [unpackBody_step (List.length_pos_iff.1 (by omega)), List.getD_append _ _ _ _ (by simp; omega)]
  cases p with
  | nil => simp at h
  | cons m ds =>
    have hlen : n < ds.length := by simpa [Nat.add_comm 1 n] using h
    rw [List.getD_eq_getElem _ _ (by simp; omega)]
    simp [unpackGroup, unpackData_getElem, Nat.add_comm 1 n, hlen]

end Sys2Proof
end

section
/-! 41_bitpacker.md R101, R116 to R118: the packed form and the unpacked bytes as relations, each met by the model's
function, each fixing its result. Pack and unpack are inverse because the relations are. -/

namespace Sys2Proof.Machine

theorem isPacked_packBody {h : List Byte} (hh : h.length = 9) (d : List Byte) : IsPacked h d (h ++ packBody d) := by
  have hget : ∀ g n, (h ++ packBody d).getD (9 + 8 * g + n) 0 = (packBody (d.drop (7 * g))).getD n 0 := fun g n => by
    rw [List.getD_append_right _ _ _ _ (by omega), ← packBody_drop, getD_drop]
    congr 1
    omega
  refine ⟨by rw [List.length_append, packBody_length]; omega, List.take_left' hh, fun g n hn hlt => ?_, fun g hlt => ?_⟩
  · rw [Nat.add_assoc (9 + 8 * g), hget, packBody_data hn (by rw [List.length_drop]; omega), getD_drop]
  · have hmask : (h ++ packBody d).getD (9 + 8 * g) 0 = packMask 0 ((d.drop (7 * g)).take 7) := by
      rw [← Nat.add_zero (9 + 8 * g), hget, packBody_mask (List.length_pos_iff.1 (by rw [List.length_drop]; omega))]
    rw [hmask]
    refine ⟨by rw [getLsbD_packMask]; rfl, fun n hn => ?_⟩
    have htake : ((d.drop (7 * g)).take 7).getD n 0 = d.getD (7 * g + n) 0 := by
      rw [← getD_drop, List.getD_eq_getElem?_getD, List.getElem?_take_of_lt hn, ← List.getD_eq_getElem?_getD]
    rw [getLsbD_packMask, Nat.add_zero, show 6 - (6 - n) = n by omega, htake]
    simp

theorem isUnpacked_unpackBody (p : List Byte) : IsUnpacked p (unpackBody p) := by
  refine ⟨unpackBody_length p, fun g n hn hlt => ?_⟩
  rw [unpackBody_length] at hlt
  rw [← getD_drop, unpackBody_drop, unpackBody_data hn (by rw [List.length_drop]; omega), getD_drop, getD_drop,
    unpackByte_eq _ _ hn, Nat.add_zero, ← Nat.add_assoc]

/-- An index of a packed body is that of a mask byte or that of a data byte. -/
theorem packedIndex_cases {l k : Nat} (hk : k < l + (l + 6) / 7) :
    ∃ g, 7 * g < l ∧ (k = 8 * g ∨ ∃ n, n < 7 ∧ 7 * g + n < l ∧ k = 8 * g + 1 + n) := by
  refine ⟨k / 8, by omega, ?_⟩
  by_cases h : k % 8 = 0
  · exact .inl (by omega)
  · exact .inr ⟨k % 8 - 1, by omega, by omega, by omega⟩

/-- A mask byte is fixed by its bit 7 and by the bits of the seven positions. -/
theorem mask_ext {m m' : Byte} (h7 : m.getLsbD 7 = m'.getLsbD 7)
    (h : ∀ n, n < 7 → m.getLsbD (6 - n) = m'.getLsbD (6 - n)) : m = m' := by
  refine BitVec.eq_of_getLsbD_eq fun i hi => ?_
  by_cases hi7 : i = 7
  · exact hi7 ▸ h7
  · have := h (6 - i) (by omega)
    rwa [show 6 - (6 - i) = i by omega] at this

theorem IsPacked.unique {h d q q' : List Byte} (hq : IsPacked h d q) (hq' : IsPacked h d q') : q = q' := by
  have hlen : q.length = q'.length := hq.length.trans hq'.length.symm
  have hbody : q.drop 9 = q'.drop 9 := by
    refine List.ext_getElem (by simp [hlen]) fun k hk hk' => ?_
    rw [← List.getD_eq_getElem _ 0 hk, ← List.getD_eq_getElem _ 0 hk', getD_drop, getD_drop]
    rw [List.length_drop, hq.length] at hk
    obtain ⟨g, hg, rfl | ⟨n, hn, hlt, rfl⟩⟩ := packedIndex_cases (l := d.length) (k := k) (by omega)
    · obtain ⟨htop, hbits⟩ := hq.mask g hg
      obtain ⟨htop', hbits'⟩ := hq'.mask g hg
      exact mask_ext (htop.trans htop'.symm) fun n hn => (hbits n hn).trans (hbits' n hn).symm
    · rw [← Nat.add_assoc, ← Nat.add_assoc, hq.data g n hn hlt, hq'.data g n hn hlt]
  rw [← List.take_append_drop 9 q, ← List.take_append_drop 9 q', hq.headBytes, hq'.headBytes, hbody]

theorem IsUnpacked.unique {p r r' : List Byte} (hr : IsUnpacked p r) (hr' : IsUnpacked p r') : r = r' := by
  have hlen : r.length = r'.length := hr.length.trans hr'.length.symm
  refine List.ext_getElem hlen fun k hk hk' => ?_
  have hidx : 7 * (k / 7) + k % 7 = k := Nat.div_add_mod k 7
  have hn : k % 7 < 7 := Nat.mod_lt k (by decide)
  rw [← List.getD_eq_getElem _ 0 hk, ← List.getD_eq_getElem _ 0 hk', ← hidx,
    hr.data (k / 7) (k % 7) hn (by omega), hr'.data (k / 7) (k % 7) hn (by omega)]

/-- 41_bitpacker.md R118. -/
theorem IsPacked.midiSafe {h d q : List Byte} (hq : IsPacked h d q) {b : Byte} (hb : b ∈ q.drop 9) : midiSafe b := by
  obtain ⟨k, hk, rfl⟩ := List.mem_iff_getElem.1 hb
  rw [midiSafe_iff, ← List.getD_eq_getElem _ 0 hk, getD_drop]
  rw [List.length_drop, hq.length] at hk
  obtain ⟨g, hg, rfl | ⟨n, hn, hlt, rfl⟩⟩ := packedIndex_cases (l := d.length) (k := k) (by omega)
  · exact (hq.mask g hg).1
  · rw [← Nat.add_assoc, ← Nat.add_assoc, hq.data g n hn hlt]
    simp

/-- 41_bitpacker.md R116: a packed body unpacks to what was packed. -/
theorem IsPacked.isUnpacked {h d q : List Byte} (hq : IsPacked h d q) : IsUnpacked (q.drop 9) d := by
  have hlen := hq.length
  refine ⟨by rw [List.length_drop]; omega, fun g n hn hlt => ?_⟩
  obtain ⟨-, hbits⟩ := hq.mask g (by omega)
  rw [getD_drop, getD_drop, ← Nat.add_assoc, ← Nat.add_assoc, hbits n hn, hq.data g n hn hlt, restore_topBit]

/-- 41_bitpacker.md R117: a canonical body is the packed form of what it unpacks to. -/
theorem IsUnpacked.isPacked {h p r : List Byte} (hh : h.length = 9) (hp : CanonicalBody p) (hr : IsUnpacked p r) :
    IsPacked h r (h ++ p) := by
  obtain ⟨hsafe, hlone, hlen2, habsent⟩ := hp
  have hlen := hr.length
  have hget : ∀ k, (h ++ p).getD (9 + k) 0 = p.getD k 0 := fun k => by
    rw [List.getD_append_right _ _ _ _ (by omega), hh, Nat.add_sub_cancel_left]
  have htop : ∀ k, k < p.length → (p.getD k 0).getLsbD 7 = false := fun k hk => by
    rw [← midiSafe_iff, List.getD_eq_getElem _ 0 hk]
    exact hsafe _ (List.getElem_mem hk)
  refine ⟨by rw [List.length_append]; omega, List.take_left' hh, fun g n hn hlt => ?_,
    fun g hlt => ⟨by rw [hget, htop (8 * g) (by omega)], fun n hn => ?_⟩⟩
  · rw [Nat.add_assoc, Nat.add_assoc, hget, ← Nat.add_assoc, hr.data g n hn hlt]
    exact (clear_topBit (htop (8 * g + 1 + n) (by omega)) _).symm
  · rw [hget]
    by_cases hpresent : 7 * g + n < r.length
    · rw [hr.data g n hn hpresent]
      exact (topBit_of_set (htop (8 * g + 1 + n) (by omega)) _).symm
    · rw [List.getD_eq_default _ _ (Nat.not_lt.1 hpresent)]
      have hlast : p.length / 8 * 8 = 8 * g := by omega
      exact hlast ▸ habsent (by omega) (6 - n) (by omega)

end Sys2Proof.Machine
end

section
/-! 41_bitpacker.md R102 to R104, R110, R116 to R118: `unpack78` and `pack87` on whole messages. -/

namespace Sys2Proof.Machine

theorem pack87_append {h : List Byte} (hh : h.length = 9) (d : List Byte) : pack87 (h ++ d) = .ok (h ++ packBody d) := by
  rw [pack87, if_neg (by rw [List.length_append]; omega), packMessage, List.take_left' hh, List.drop_left' hh]

theorem pack87_short {b : List Byte} (h : b.length < 9) : pack87 b = .error .malformedBuffer := if_pos h

theorem pack87_isPacked {b : List Byte} (h : 9 ≤ b.length) : ∃ q, pack87 b = .ok q ∧ IsPacked (b.take 9) (b.drop 9) q :=
  ⟨packMessage b, if_neg (Nat.not_lt.2 h), isPacked_packBody (List.length_take_of_le h) (b.drop 9)⟩

/-- 41_bitpacker.md R103. -/
theorem IsBodyOf.stripTerminator_eq {b p : List Byte} (h : IsBodyOf b p) : stripTerminator (b.drop 9) = p := by
  obtain ⟨-, hp | ⟨rfl, hlast⟩⟩ := h
  · rw [stripTerminator, hp, if_pos List.getLast?_concat, List.dropLast_concat]
  · exact if_neg hlast

theorem isBodyOf_terminated {h : List Byte} (hh : h.length = 9) (p : List Byte) : IsBodyOf (h ++ p ++ [0xF7]) p := by
  refine ⟨by simp only [List.length_append]; omega, .inl ?_⟩
  rw [List.append_assoc, List.drop_left' hh]

/-- A body of data bytes does not end in a status byte, so nothing of it is stripped. -/
theorem isBodyOf_midiSafe {h p : List Byte} (hh : h.length = 9) (hp : ∀ b ∈ p, midiSafe b) : IsBodyOf (h ++ p) p := by
  refine ⟨by rw [List.length_append]; omega, .inr ⟨List.drop_left' hh, fun hlast => ?_⟩⟩
  exact absurd (hp 0xF7 (List.mem_of_getLast? hlast)) (by decide)

theorem IsBodyOf.unpack78_ok {b p : List Byte} (h : IsBodyOf b p) (hne : p ≠ []) (hlone : p.length % 8 ≠ 1) :
    unpack78 b = .ok (unpackBody p) := by
  rw [unpack78, if_neg (Nat.not_lt.2 h.1), h.stripTerminator_eq]
  simp [hne, hlone]

theorem unpack78_malformed {b : List Byte} (h : unpackMalformed b) : unpack78 b = .error .malformedBuffer := by
  rcases h with hshort | ⟨p, hbody, hp⟩
  · exact if_pos hshort
  · rw [unpack78, if_neg (Nat.not_lt.2 hbody.1), hbody.stripTerminator_eq]
    rcases hp with rfl | hlone
    · rfl
    · simp [hlone]

theorem midiSafe_packBody (d : List Byte) : ∀ b ∈ packBody d, midiSafe b := fun b hb =>
  (isPacked_packBody (List.length_replicate (a := 0)) d).midiSafe (by rwa [List.drop_left' List.length_replicate])

theorem unpackBody_packBody (d : List Byte) : unpackBody (packBody d) = d := by
  have hunpacked : IsUnpacked (packBody d) d := by
    have := (isPacked_packBody (List.length_replicate (a := 0)) d).isUnpacked
    rwa [List.drop_left' List.length_replicate] at this
  exact (isUnpacked_unpackBody _).unique hunpacked

/-- Settles O40: the bytes from index 9 on are masks and data bytes with bit 7 cleared. -/
theorem packedBodyIsMidiSafe : Obligations.PackedBodyIsMidiSafe := by
  intro b q hq
  have hlen : 9 ≤ b.length := Nat.not_lt.1 fun hshort => by rw [pack87_short hshort] at hq; cases hq
  obtain ⟨q', hq', hpacked⟩ := pack87_isPacked hlen
  obtain rfl : q' = q := Except.ok.inj (hq'.symm.trans hq)
  refine ⟨fun k hk h9 => hpacked.midiSafe (List.mem_drop_iff_getElem.2 ⟨k - 9, by omega, ?_⟩), hpacked.headBytes⟩
  congr 1
  omega

/-- Settles O38: a packed body is midi-safe, so it is stripped of nothing but a terminator, and it unpacks to what was
packed. -/
theorem packThenUnpackIsIdentity : Obligations.PackThenUnpackIsIdentity := by
  intro h d hh
  have hbody : IsBodyOf (h ++ packBody d) (packBody d) := isBodyOf_midiSafe hh (midiSafe_packBody d)
  refine ⟨h ++ packBody d, pack87_append hh d, fun hd => ?_, fun hd => ?_⟩
  · have hpos := List.length_pos_iff.2 hd
    have hne : packBody d ≠ [] := List.length_pos_iff.1 (by rw [packBody_length]; omega)
    have hlone : (packBody d).length % 8 ≠ 1 := by rw [packBody_length]; omega
    rw [hbody.unpack78_ok hne hlone, (isBodyOf_terminated hh _).unpack78_ok hne hlone, unpackBody_packBody]
    exact ⟨rfl, rfl⟩
  · exact unpack78_malformed (.inr ⟨packBody d, hbody, .inl (by rw [hd]; rfl)⟩)

/-- Settles O39: a canonical body is the packed form of its unpacked bytes, and a packed form is unique. -/
theorem unpackThenPackIsIdentityOnCanonicalBodies : Obligations.UnpackThenPackIsIdentityOnCanonicalBodies := by
  intro h p hh hp
  have hrepack : packBody (unpackBody p) = p :=
    List.append_cancel_left ((isPacked_packBody hh _).unique ((isUnpacked_unpackBody p).isPacked hh hp))
  obtain ⟨hsafe, hlone, hlen, -⟩ := hp
  have hne : p ≠ [] := List.length_pos_iff.1 (by omega)
  exact ⟨unpackBody p, (isBodyOf_midiSafe hh hsafe).unpack78_ok hne hlone,
    (isBodyOf_terminated hh p).unpack78_ok hne hlone, by rw [pack87_append hh, hrepack]⟩

end Sys2Proof.Machine
end

section
/-! 41_bitpacker.md R109, R115, 20_memory.md R69: what UNPACK78 and PACK87 write. -/

namespace Sys2Proof.Machine

/-- 20_memory.md R69, 10_state.md R30: a result that fits is stored in OBUF and OUT_LEN, and nothing else changes but
STATUS. -/
theorem finishWithBytes_stores (s : State) {bs : List Byte} (h : bs.length ≤ s.outCap) :
    ∃ t, finishWithBytes s bs = .next t ∧
      t = { s with mem := t.mem, outLen := BitVec.ofNat 16 bs.length, status := successStatus s.status } ∧
      ObufHolds t 0 bs ∧ SameOutsideObuf s t bs.length :=
  ⟨(s.storeResult bs).complete, finishWithBytes_fits s bs h, rfl,
    fun k hk => read_writeBytes_inside s.mem obufBase bs k hk, fun a ha => read_writeBytes_outside s.mem obufBase bs a ha⟩

theorem exec_unpack78 {s : State} {b : List Byte} (h : HasInput s b) :
    exec .unpack78 s = orRaise s (unpack78 b) (finishWithBytes s) := withInput_hasInput _ h

theorem exec_pack87 {s : State} {b : List Byte} (h : HasInput s b) :
    exec .pack87 s = orRaise s (pack87 b) (finishWithBytes s) := withInput_hasInput _ h

/-- Settles O35, by the way `unpack78` ends: with bytes that fit or not, with an error, or not reached. -/
theorem unpack78WritesTheUnpackedBytes : Obligations.Unpack78WritesTheUnpackedBytes := by
  refine ⟨fun s b d hb hbody hne hlone => ?_, fun s b hb hbad => ?_, fun s => exec_tooLong rfl⟩
  · have hexec : exec .unpack78 s = finishWithBytes s (unpackBody d) := by
      rw [exec_unpack78 hb, hbody.unpack78_ok hne hlone, orRaise_ok]
    rw [← unpackBody_length, hexec]
    refine ⟨fun hfit => ?_, finishWithBytes_tooLong s _⟩
    obtain ⟨t, ht⟩ := finishWithBytes_stores s hfit
    exact ⟨unpackBody d, t, isUnpacked_unpackBody d, ht⟩
  · rw [exec_unpack78 hb, unpack78_malformed hbad]
    rfl

/-- Settles O36, by the way `pack87` ends: with bytes that fit or not, with an error, or not reached. -/
theorem pack87WritesThePackedMessage : Obligations.Pack87WritesThePackedMessage := by
  refine ⟨fun s b hb hlen => ?_, fun s b hb hshort => ?_, fun s => exec_tooLong rfl⟩
  · obtain ⟨q, hq, hpacked⟩ := pack87_isPacked hlen
    have hexec : exec .pack87 s = finishWithBytes s q := by rw [exec_pack87 hb, hq, orRaise_ok]
    rw [← List.length_drop, ← hpacked.length, hexec]
    refine ⟨fun hfit => ?_, finishWithBytes_tooLong s q⟩
    obtain ⟨t, ht⟩ := finishWithBytes_stores s hfit
    exact ⟨q, t, hpacked, ht⟩
  · rw [exec_pack87 hb, pack87_short hshort]
    rfl

end Sys2Proof.Machine
end

section
/-! 42_checksum.md R131, R136: a step of the CRC is linear over exclusive or, drops a 0 in bit 0, and is the rule's
construction on numbers. -/

namespace Sys2Proof

/-- What a step adds to the shifted word for the bit that it drops. -/
def crcFeedback (bit : Bool) : Word := if bit then 0xEDB88320#32 else 0

theorem crcFeedback_xor (x y : Bool) : crcFeedback (x ^^ y) = crcFeedback x ^^^ crcFeedback y := by
  cases x <;> cases y <;> decide

theorem crcStep_eq (c : Word) : crcStep c = crcFeedback (c.getLsbD 0) ^^^ c >>> 1 := by
  unfold crcStep crcFeedback
  split
  · rfl
  · exact BitVec.zero_xor.symm

theorem crcStep_xor (c d : Word) : crcStep (c ^^^ d) = crcStep c ^^^ crcStep d := by
  simp only [crcStep_eq, BitVec.getLsbD_xor, BitVec.ushiftRight_xor_distrib, crcFeedback_xor]
  ac_rfl

theorem crcStep_iterate_xor (n : Nat) (c d : Word) : crcStep^[n] (c ^^^ d) = crcStep^[n] c ^^^ crcStep^[n] d := by
  induction n generalizing c d with
  | zero => rfl
  | succ n ih => simp only [Function.iterate_succ_apply, crcStep_xor, ih]

/-- Steps that meet only zero bits are shifts. -/
theorem crcStep_iterate_lowZeros {n : Nat} {c : Word} (h : ∀ k < n, c.getLsbD k = false) :
    crcStep^[n] c = c >>> n := by
  induction n generalizing c with
  | zero => simp
  | succ n ih =>
    have hstep : crcStep c = c >>> 1 := by rw [crcStep, h 0 n.succ_pos]; rfl
    have hrest : ∀ k < n, (c >>> 1).getLsbD k = false := fun k hk => by
      rw [BitVec.getLsbD_ushiftRight, Nat.add_comm]
      exact h (k + 1) (by omega)
    rw [Function.iterate_succ_apply, hstep, ih hrest, ← BitVec.shiftRight_add, Nat.add_comm]

theorem crcStep8_eq_iterate (c : Word) : crcStep8 c = crcStep^[8] c := rfl

/-- The bits of a word that select its entry of CRCROM. -/
def crcLowByte (c : Word) : Word := (c.extractLsb' 0 8).setWidth 32

theorem getLsbD_crcLowByte (c : Word) (k : Nat) : (crcLowByte c).getLsbD k = (decide (k < 8) && c.getLsbD k) := by
  rw [crcLowByte, BitVec.getLsbD_setWidth, BitVec.getLsbD_extractLsb', Nat.zero_add]
  by_cases hk : k < 8
  · simp [hk, show k < 32 by omega]
  · simp [hk]

/-- The table lookup of R133: eight steps depend on the low byte through CRCROM and shift the rest down. -/
theorem crcStep8_eq_shift_xor_rom (c : Word) : crcStep8 c = c >>> 8 ^^^ crcRom (c.extractLsb' 0 8) := by
  have hzeros : ∀ k < 8, (c ^^^ crcLowByte c).getLsbD k = false := fun k hk => by simp [getLsbD_crcLowByte, hk]
  have hshift : (c ^^^ crcLowByte c) >>> 8 = c >>> 8 :=
    BitVec.eq_of_getLsbD_eq fun k _ => by simp [getLsbD_crcLowByte]
  calc crcStep8 c
      = crcStep^[8] ((c ^^^ crcLowByte c) ^^^ crcLowByte c) := by
        rw [BitVec.xor_assoc, BitVec.xor_self, BitVec.xor_zero, crcStep8_eq_iterate]
    _ = crcStep^[8] (c ^^^ crcLowByte c) ^^^ crcStep^[8] (crcLowByte c) := crcStep_iterate_xor 8 _ _
    _ = c >>> 8 ^^^ crcRom (c.extractLsb' 0 8) := by rw [crcStep_iterate_lowZeros hzeros, hshift]; rfl

theorem crcByte_eq_crcStep8 (c : Word) (b : Byte) : crcByte c b = crcStep8 (c ^^^ b.setWidth 32) := by
  have hb : b.setWidth 32 >>> 8 = 0#32 := by
    ext k hk
    simp [BitVec.getLsbD_of_ge]
  rw [crcStep8_eq_shift_xor_rom, BitVec.ushiftRight_xor_distrib, hb, BitVec.xor_zero]
  rfl

/-- One step of the table construction of R131 on numbers. -/
def crcStepNat (c : Nat) : Nat := if c % 2 = 1 then 0xEDB88320 ^^^ (c / 2) else c / 2

theorem crcStep_toNat (c : Word) : (crcStep c).toNat = crcStepNat c.toNat := by
  have hbit : c.getLsbD 0 = decide (c.toNat % 2 = 1) := Nat.testBit_zero _
  unfold crcStep crcStepNat
  rw [hbit]
  split <;> simp_all [Nat.shiftRight_eq_div_pow]

theorem crcRom_toNat (i : Byte) : (crcRom i).toNat = crcStepNat^[8] i.toNat := by
  have hiter : Function.Semiconj BitVec.toNat crcStep^[8] crcStepNat^[8] :=
    Function.Semiconj.iterate_right crcStep_toNat 8
  rw [crcRom, crcStep8_eq_iterate, hiter, BitVec.toNat_setWidth_of_le (by decide)]

end Sys2Proof
end

section
/-! 42_checksum.md R131, R134, R135, R136: CRCROM, the checksum, and what CRC32 writes. -/

namespace Sys2Proof.Machine

/-- Settles O25: the host reads CRCROM in every state, and its entries are the numbers of the rule's construction. -/
theorem crcRomHoldsTheTable : Obligations.CrcRomHoldsTheTable := by
  refine ⟨fun s k hk => ?_, by decide⟩
  have hbyte : (BitVec.ofNat 8 k).toNat = k := by simp [Nat.mod_eq_of_lt hk]
  have hrom : (crcRom (BitVec.ofNat 8 k)).toNat = crcStepNat^[8] k := by rw [crcRom_toNat, hbyte]
  have hread := busRead_rom s (BitVec.ofNat 8 k)
  rw [hbyte] at hread
  change crcStepNat^[8] k < 2 ^ 32 ∧ s.busRead .w32 _ = .data (BitVec.ofNat 32 (crcStepNat^[8] k))
  rw [← hrom, BitVec.ofNat_toNat, BitVec.setWidth_eq]
  exact ⟨(crcRom _).isLt, hread⟩

/-- Settles O26: each byte's table lookup is its eight bit steps. -/
theorem crcFoldIsBitSerial : Obligations.CrcFoldIsBitSerial := by
  intro xs
  have hfold : crcByte = fun c b => crcStep8 (c ^^^ b.setWidth 32) := by
    funext c b
    exact crcByte_eq_crcStep8 c b
  rw [crc32, hfold]
  rfl

/-- Settles O27: both sequences are concrete, so the fold is evaluated. -/
theorem crcCheckValues : Obligations.CrcCheckValues := ⟨rfl, by decide⟩

/-- Settles O28: the command applies the table-driven fold to its whole input, after the check of IN_LEN. -/
theorem crc32WritesTheChecksum : Obligations.Crc32WritesTheChecksum := by
  refine ⟨fun s b hb => ?_, fun s => exec_tooLong rfl⟩
  have hexec : exec .crc32 s = .next { s with crc := crc32 b }.complete := withInput_hasInput _ hb
  rw [hexec, crcFoldIsBitSerial b]
  rfl

end Sys2Proof.Machine
end

section
/-! 43_signed_byte.md R151, R153: the converter's functions are the two's-complement value of a byte and the low byte of
an integer. -/

namespace Sys2Proof

theorem ofNat_truncN (n : Nat) (v : Int) : BitVec.ofNat n (truncN n v) = BitVec.ofInt n v := by
  refine BitVec.eq_of_toNat_eq ?_
  rw [BitVec.toNat_ofNat, Nat.mod_eq_of_lt (truncN_lt n v), BitVec.toNat_ofInt, truncN, Nat.cast_pow, Nat.cast_two]

theorem toSigned_eq_toInt (b : Byte) : toSigned b = b.toInt := by
  rw [toSigned, BitVec.toInt_eq_toNat_cond]
  split_ifs <;> omega

theorem toUnsignedByte_eq_ofInt (v : Int) : toUnsignedByte v = BitVec.ofInt 8 v := ofNat_truncN 8 v

theorem toSigned_toUnsignedByte (v : Int) : toSigned (toUnsignedByte v) = v.bmod 256 := by
  rw [toUnsignedByte_eq_ofInt, toSigned_eq_toInt, BitVec.toInt_ofInt]

/-- R152: truncating a byte's signed value to 32 bits is sign extension. -/
theorem ofNat_truncN_toSigned (b : Byte) : BitVec.ofNat 32 (truncN 32 (toSigned b)) = b.signExtend 32 := by
  rw [ofNat_truncN, toSigned_eq_toInt, BitVec.signExtend]

/-- R154: the byte of a signed word is the word's low byte, whatever its sign. -/
theorem toUnsignedByte_toInt (w : Word) : toUnsignedByte w.toInt = w.setWidth 8 := by
  rw [toUnsignedByte_eq_ofInt, ← BitVec.signExtend_eq_setWidth_of_le w (by decide), BitVec.signExtend]

theorem setWidth_lowByte (w : Word) : (w.setWidth 8).setWidth 32 = w &&& 0x000000FF := by
  refine BitVec.eq_of_toNat_eq ?_
  have hlow : w.toNat &&& 0xFF = w.toNat % 2 ^ 8 := Nat.and_two_pow_sub_one_eq_mod _ 8
  rw [BitVec.toNat_setWidth_of_le (by decide), BitVec.toNat_setWidth, BitVec.toNat_and]
  exact hlow.symm

end Sys2Proof
end

section
/-! 43_signed_byte.md R152, R154, R155: what TOSIGNED and TOUNSIGNED write, and the converter's laws. -/

namespace Sys2Proof.Machine

theorem exec_toSigned (s : State) : exec .toSigned s = execToSigned s := rfl

theorem exec_toUnsigned (s : State) : exec .toUnsigned s = execToUnsigned s := rfl

/-- Settles O41: the command truncates the signed value of CONV_IN's low byte to 32 bits. -/
theorem toSignedSignExtendsTheLowByte : Obligations.ToSignedSignExtendsTheLowByte := by
  intro s
  rw [exec_toSigned, execToSigned, ofNat_truncN_toSigned]
  rfl

/-- Settles O42: the command zero-extends the low byte of CONV_IN's signed value. -/
theorem toUnsignedKeepsTheLowByte : Obligations.ToUnsignedKeepsTheLowByte := by
  intro s
  rw [exec_toUnsigned, execToUnsigned, State.convInt, toUnsignedByte_toInt, setWidth_lowByte]
  rfl

/-- Settles O43: a byte is determined by its signed value, and an integer's byte gives back the integer's balanced
residue modulo 256. -/
theorem converterLawsHold : Obligations.ConverterLawsHold := by
  refine ⟨fun b => ?byteBack, fun v _ _ => ?inRange, fun v _ _ => ?above, ?vectors⟩
  case byteBack => rw [toSigned_eq_toInt, toUnsignedByte_eq_ofInt, BitVec.ofInt_toInt]
  case inRange =>
    rw [toSigned_toUnsignedByte]
    exact Int.bmod_eq_of_le (by omega) (by omega)
  case above =>
    rw [toSigned_toUnsignedByte, ← Int.sub_bmod_right v 256]
    exact Int.bmod_eq_of_le (by omega) (by omega)
  case vectors => decide

end Sys2Proof.Machine
end

section
/-! 44_patch_codec.md R161, R166, R182: which payload bytes a well-formed layout gives to which field. -/

namespace Sys2Proof

theorem kindAt_lCurveAt (n : Fin 4) : kindAt (lCurveAt n) = .bit0 := by revert n; decide

theorem kindAt_rCurveAt (n : Fin 4) : kindAt (rCurveAt n) = .bit4 := by revert n; decide

theorem operatorOf_lCurveAt (n : Fin 4) : operatorOf (lCurveAt n) = n := by revert n; decide

theorem operatorOf_rCurveAt (n : Fin 4) : operatorOf (rCurveAt n) = n := by revert n; decide

theorem lCurveAt_operatorOf {i : Fin 121} (hi : kindAt i = .bit0) : lCurveAt (operatorOf i) = i := by revert i; decide

theorem rCurveAt_operatorOf {i : Fin 121} (hi : kindAt i = .bit4) : rCurveAt (operatorOf i) = i := by revert i; decide

/-- R166: the conditions of a well-formed layout. -/
theorem Layout.wf_iff (L : Layout) :
    L.wf = true ↔ (∀ i, ∀ o ∈ L.fieldBytes i, o ≤ 0x84) ∧
      (∀ n, L.off.get (lCurveAt n) = L.off.get (rCurveAt n)) ∧ L.claimed.Nodup := by
  simp [Layout.wf, Layout.inPayload, Layout.curvesShared, Layout.noOverlap, and_assoc]

/-- What field i adds to the bytes the layout assigns: its own, and none for RCURVE, whose byte LCURVE adds. -/
def Layout.claimedBytes (L : Layout) (i : Fin 121) : List Nat := if kindAt i = .bit4 then [] else L.fieldBytes i

theorem Layout.claimed_eq (L : Layout) : L.claimed = (List.finRange 121).flatMap L.claimedBytes := rfl

theorem Layout.claimedBytes_eq (L : Layout) {i : Fin 121} (hi : kindAt i ≠ .bit4) : L.claimedBytes i = L.fieldBytes i :=
  if_neg hi

theorem Layout.mem_claimed {L : Layout} {o : Nat} :
    o ∈ L.claimed ↔ ∃ i, kindAt i ≠ .bit4 ∧ o ∈ L.fieldBytes i := by
  simp [Layout.claimed]

/-- The number of bytes that a field of a kind adds to the byte budget of R182, the curve byte counted as LCURVE's. -/
def FieldKind.byteBudget : FieldKind → Nat
  | .u8 => 1
  | .s8 => 1
  | .u16 => 2
  | .u24 => 3
  | .fb => 2
  | .bit0 => 1
  | .bit4 => 0

theorem Layout.length_claimedBytes (L : Layout) (i : Fin 121) : (L.claimedBytes i).length = (kindAt i).byteBudget := by
  unfold Layout.claimedBytes Layout.fieldBytes
  cases kindAt i <;> rfl

/-- R182: 9 bytes of Mixer and Pitch and 31 bytes per operator. -/
theorem sum_byteBudget : ((List.finRange 121).map fun i => (kindAt i).byteBudget).sum = 0x85 := by decide +kernel

theorem Layout.length_claimed (L : Layout) : L.claimed.length = 0x85 := by
  rw [Layout.claimed_eq, List.length_flatMap]
  simp only [Layout.length_claimedBytes, sum_byteBudget]

section WellFormed

variable {L : Layout} (hL : L.wf = true)
include hL

theorem Layout.le_of_mem_fieldBytes {i : Fin 121} {o : Nat} (ho : o ∈ L.fieldBytes i) : o ≤ 0x84 :=
  (L.wf_iff.1 hL).1 i o ho

theorem Layout.off_rCurveAt (n : Fin 4) : L.off.get (rCurveAt n) = L.off.get (lCurveAt n) := ((L.wf_iff.1 hL).2.1 n).symm

theorem Layout.nodup_claimed : L.claimed.Nodup := (L.wf_iff.1 hL).2.2

theorem Layout.nodup_fieldBytes {i : Fin 121} (hi : kindAt i ≠ .bit4) : (L.fieldBytes i).Nodup := by
  rw [← L.claimedBytes_eq hi]
  exact (List.nodup_flatMap.1 (Layout.nodup_claimed hL)).1 i (List.mem_finRange i)

/-- R166 condition 4: a byte belongs to one field at most, the curve byte counted as LCURVE's. -/
theorem Layout.field_unique {i j : Fin 121} (hi : kindAt i ≠ .bit4) (hj : kindAt j ≠ .bit4) {o : Nat}
    (hoi : o ∈ L.fieldBytes i) (hoj : o ∈ L.fieldBytes j) : i = j := by
  by_contra hij
  have hsymm : Std.Symm (Function.onFun List.Disjoint L.claimedBytes) := ⟨fun _ _ h => h.symm⟩
  have hpair : (List.finRange 121).Pairwise (Function.onFun List.Disjoint L.claimedBytes) :=
    (List.nodup_flatMap.1 (Layout.nodup_claimed hL)).2
  have hdisj : List.Disjoint (L.claimedBytes i) (L.claimedBytes j) :=
    hpair.forall (List.mem_finRange i) (List.mem_finRange j) hij
  rw [L.claimedBytes_eq hi, L.claimedBytes_eq hj] at hdisj
  exact hdisj hoi hoj

/-- R182: 0x85 different bytes, none above 0x84, are all bytes up to 0x84. -/
theorem Layout.mem_claimed_of_le {o : Nat} (ho : o ≤ 0x84) : o ∈ L.claimed := by
  have hsub : L.claimed.toFinset ⊆ Finset.range 0x85 := fun a ha => by
    obtain ⟨i, -, hai⟩ := Layout.mem_claimed.1 (List.mem_toFinset.1 ha)
    exact Finset.mem_range_succ_iff.2 (Layout.le_of_mem_fieldBytes hL hai)
  have hcard : L.claimed.toFinset.card = 0x85 := by
    rw [List.toFinset_card_of_nodup (Layout.nodup_claimed hL), Layout.length_claimed]
  have hall : L.claimed.toFinset = Finset.range 0x85 :=
    Finset.eq_of_subset_of_card_le hsub (by rw [hcard, Finset.card_range])
  exact List.mem_toFinset.1 (hall ▸ Finset.mem_range_succ_iff.2 ho)

end WellFormed

end Sys2Proof

namespace Sys2Proof.Machine

/-- Settles O49: the claimed bytes are as many as the bytes up to 0x84, and all different. -/
theorem fieldsFillThePayload : Obligations.FieldsFillThePayload := by
  refine fun L hL => ⟨L.length_claimed, fun o ho => ?_⟩
  obtain ⟨i, hi, hoi⟩ := Layout.mem_claimed.1 (Layout.mem_claimed_of_le hL ho)
  exact ⟨i, hi, hoi, fun j hj hoj => Layout.field_unique hL hj hi hoj hoi⟩

end Sys2Proof.Machine
end

section
/-! 44_patch_codec.md R161, R168, R169, R172 to R175: the payload bytes of a field value and the value of payload bytes,
as bits of the field's cell. -/

namespace Sys2Proof

theorem toNat_append_eq {m n : Nat} (x : BitVec m) (y : BitVec n) : (x ++ y).toNat = x.toNat * 2 ^ n + y.toNat := by
  rw [BitVec.toNat_append, ← Nat.shiftLeft_add_eq_or_of_lt y.isLt, Nat.shiftLeft_eq]

theorem setWidth_eq_zero_append (m : Nat) {n : Nat} (x : BitVec n) : x.setWidth (m + n) = 0#m ++ x := by
  refine BitVec.eq_of_toNat_eq ?_
  rw [toNat_append_eq, BitVec.toNat_setWidth_of_le (Nat.le_add_left n m)]
  simp

/-- The value of three bytes, least significant first. -/
theorem ofNat_bytes (b0 b1 b2 : Byte) :
    BitVec.ofNat 24 (b0.toNat + b1.toNat * 256 + b2.toNat * 65536) = b2 ++ b1 ++ b0 := by
  have happend := toNat_append_eq (b2 ++ b1) b0
  rw [toNat_append_eq b2 b1] at happend
  refine BitVec.eq_of_toNat_eq ((BitVec.toNat_ofNat _ _).trans (Eq.trans ?_ happend.symm))
  omega

/-- The value of two bytes, least significant first, in a wider cell. -/
theorem setWidth_ofNat_bytes (b0 b1 : Byte) :
    (BitVec.ofNat 16 (b0.toNat + b1.toNat * 256)).setWidth 24 = 0#8 ++ b1 ++ b0 := by
  rw [← ofNat_bytes]
  refine BitVec.eq_of_toNat_eq ?_
  rw [BitVec.toNat_setWidth_of_le (by decide), BitVec.toNat_ofNat, BitVec.toNat_ofNat, BitVec.toNat_ofNat]
  omega

theorem extractLsb'_bit {w : Nat} (x : BitVec w) (k : Nat) : x.extractLsb' k 1 = BitVec.ofBool (x.getLsbD k) := by
  refine BitVec.eq_of_getLsbD_eq fun j hj => ?_
  obtain rfl : j = 0 := by omega
  simp

/-- A byte below the width of a zero-extended value is that byte of the bits it comes from. -/
theorem byteOf_zextN {w n k : Nat} (x : BitVec w) (hk : 8 * k + 8 ≤ n) :
    byteOf (zextN n x.toNat) k = x.extractLsb' (8 * k) 8 := by
  have hbase : 256 ^ k = 2 ^ (8 * k) := (pow_mul 2 8 k).symm
  have hpow : 2 ^ n = 2 ^ (8 * k) * 2 ^ (n - 8 * k) := by rw [← pow_add, Nat.add_sub_cancel' (by omega)]
  have hdvd : 2 ^ 8 ∣ 2 ^ (n - 8 * k) := pow_dvd_pow 2 (by omega)
  have hbyte : byteOf (zextN n x.toNat) k = BitVec.ofNat 8 (x.toNat % 2 ^ n / 256 ^ k) := by
    rw [← BitVec.ofInt_natCast]
    exact ofNat_truncN 8 _
  refine BitVec.eq_of_toNat_eq ?_
  rw [hbyte, BitVec.toNat_ofNat, hbase, hpow, Nat.mod_mul_right_div_self, Nat.mod_mod_of_dvd _ hdvd,
    BitVec.extractLsb'_toNat, Nat.shiftRight_eq_div_pow]

theorem sextN_eq_toInt {w n : Nat} (hn : 0 < n) (x : BitVec w) : sextN n x.toNat = (x.extractLsb' 0 n).toInt := by
  obtain ⟨m, rfl⟩ := Nat.exists_eq_add_one.2 hn
  have hcond : x.toNat % 2 ^ (m + 1) < 2 ^ m ↔ 2 * (x.toNat % 2 ^ (m + 1)) < 2 ^ (m + 1) := by omega
  rw [sextN, BitVec.toInt_eq_toNat_cond, BitVec.extractLsb'_toNat, Nat.shiftRight_zero]
  simp only [Nat.add_sub_cancel, hcond, Nat.cast_pow, Nat.cast_ofNat]

/-- R174: the byte of an S8 value is exact. -/
theorem toUnsignedByte_sextN {w : Nat} (x : BitVec w) : toUnsignedByte (sextN 8 x.toNat) = x.extractLsb' 0 8 := by
  rw [toUnsignedByte_eq_ofInt, sextN_eq_toInt (by decide), BitVec.ofInt_toInt]

/-- R172: the byte is -1 exactly when fb is negative and not a multiple of 10. -/
theorem toUnsignedByte_feedbackSign (fb : Int) :
    toUnsignedByte (feedbackSign fb) = if fb < 0 ∧ fb % 10 ≠ 0 then 0xFF else 0x01 := by
  have hsign : ((fb.natAbs % 10 : Nat) : Int) * fb < 0 ↔ fb < 0 ∧ fb % 10 ≠ 0 := by
    rw [mul_neg_iff]
    omega
  rw [feedbackSign, if_congr hsign rfl rfl]
  split <;> rfl

/-- R175: bit 0 is LCURVE, bit 4 is RCURVE, the others are 0. -/
theorem curveByte_eq (f : Vector (BitVec 24) 121) (n : Fin 4) :
    curveByte f n =
      0#3 ++ (f.get (rCurveAt n)).extractLsb' 0 1 ++ 0#3 ++ (f.get (lCurveAt n)).extractLsb' 0 1 := by
  have hbit (x : BitVec 24) : x.setWidth 8 &&& 1#8 = (BitVec.ofBool (x.getLsbD 0)).setWidth 8 := by
    rw [BitVec.and_one_eq_setWidth_ofBool_getLsbD, BitVec.getLsbD_setWidth]
    simp
  have hcurve : curveByte f n =
      ((f.get (lCurveAt n)).setWidth 8 &&& 1#8) ||| (((f.get (rCurveAt n)).setWidth 8 &&& 1#8) <<< 4) := rfl
  rw [hcurve, hbit, hbit, extractLsb'_bit, extractLsb'_bit]
  cases (f.get (lCurveAt n)).getLsbD 0 <;> cases (f.get (rCurveAt n)).getLsbD 0 <;> rfl

/-- R169: what a test under a mask of one bit stores. -/
theorem ofInt_masked {b m : Byte} {k : Nat} (hm : m = BitVec.twoPow 8 k) (h0 : m ≠ 0) :
    BitVec.ofInt 1 (if b &&& m ≠ 0 then 1 else 0) = BitVec.ofBool (b.getLsbD k) := by
  have hand : b &&& m = if b.getLsbD k then m else 0 := hm ▸ BitVec.and_twoPow b k
  rw [hand]
  cases b.getLsbD k with
  | false => rfl
  | true => exact congrArg (BitVec.ofInt 1) (if_pos h0)

end Sys2Proof

namespace Sys2Proof.Machine

/-- 10_state.md R24: the cell is the value in the field's width, zeros above. -/
theorem fieldCell_eq (i : Fin 121) (v : Int) : fieldCell i v = (BitVec.ofInt (kindAt i).width v).setWidth 24 := by
  refine BitVec.eq_of_toNat_eq ?_
  rw [fieldCell, ← ofNat_truncN, BitVec.toNat_setWidth, BitVec.toNat_ofNat, BitVec.toNat_ofNat,
    Nat.mod_eq_of_lt (truncN_lt _ v)]

theorem fieldValue_fb {i : Fin 121} (hi : kindAt i = .fb) (c : BitVec 24) :
    fieldValue i c = (c.extractLsb' 0 16).toInt := by
  rw [fieldValue, hi]
  exact sextN_eq_toInt (by decide) c

end Sys2Proof.Machine
end

section
/-! 44_patch_codec.md R163 to R170: what decode makes of a buffer, and what DECODE writes. -/

namespace Sys2Proof.Machine

/-- R161, R168, R169: the decode column, kind by kind. -/
theorem isDecodedField_fieldCell (L : Layout) (pl : List Byte) (i : Fin 121) :
    IsDecodedField L pl i (fieldCell i (decodeField L pl i)) := by
  rw [fieldCell_eq, IsDecodedField, decodeField]
  cases kindAt i with
  | u8 =>
    dsimp only [FieldKind.width]
    rw [BitVec.ofInt_natCast, BitVec.ofNat_toNat, BitVec.setWidth_eq]
    exact setWidth_eq_zero_append 16 _
  | s8 =>
    dsimp only [FieldKind.width]
    rw [toSigned_eq_toInt, BitVec.ofInt_toInt]
    exact setWidth_eq_zero_append 16 _
  | u16 =>
    dsimp only [FieldKind.width]
    rw [BitVec.ofInt_natCast]
    exact setWidth_ofNat_bytes (byteAt pl (L.off.get i)) _
  | u24 =>
    dsimp only [FieldKind.width]
    rw [BitVec.ofInt_natCast, BitVec.setWidth_eq]
    exact ofNat_bytes (byteAt pl (L.off.get i)) _ _
  | fb =>
    dsimp only [FieldKind.width]
    rw [toSigned_eq_toInt, toSigned_eq_toInt]
    exact setWidth_eq_zero_append 8 _
  | bit0 =>
    exact (congrArg (BitVec.setWidth 24) (ofInt_masked (k := 0) rfl (by decide))).trans (setWidth_eq_zero_append 23 _)
  | bit4 =>
    exact (congrArg (BitVec.setWidth 24) (ofInt_masked (k := 4) rfl (by decide))).trans (setWidth_eq_zero_append 23 _)

theorem decodePatch_isDecodedField {L : Layout} {u : List Byte} {p : DecodedPatch} (h : decodePatch L u = .ok p)
    (i : Fin 121) : IsDecodedField L ((u.drop (payloadStart u)).take 0x88) i (p.fields.get i) := by
  rw [decodePatch_fields h, Vector.get_ofFn]
  exact isDecodedField_fieldCell L _ i

/-- R163 to R165: the three ways in which a buffer is malformed, in the order in which decode meets them. -/
theorem decodePatch_malformed (L : Layout) {u : List Byte} (h : decodeMalformed u) :
    decodePatch L u = .error .malformedBuffer := by
  rw [decodePatch]
  split_ifs with h1 h2 h3
  · rfl
  · rfl
  · rfl
  · exact absurd h (not_or.2 ⟨h1, not_or.2 ⟨h2, h3⟩⟩)

theorem decodePatch_wellFormed (L : Layout) {u : List Byte} (h : ¬ decodeMalformed u) : ∃ p, decodePatch L u = .ok p := by
  rw [decodeMalformed, not_or, not_or] at h
  obtain ⟨hshort, hpayload, hcount⟩ := h
  exact ⟨_, (if_neg hshort).trans ((if_neg hpayload).trans (if_neg hcount))⟩

/-- R164, R167: the count and the characters of a successful decode. -/
theorem decodePatch_name {L : Layout} {u : List Byte} {p : DecodedPatch} (h : decodePatch L u = .ok p) :
    p.count = (u.getD 0x1C 0).toNat ∧ p.count ≤ 8 ∧
      ∀ k : Fin 8, p.name.get k = if k.val < (u.getD 0x1C 0).toNat then u.getD (0x20 + k.val) 0 else 0 := by
  unfold decodePatch at h
  split_ifs at h with _ _ hcount
  cases h
  exact ⟨rfl, Nat.not_lt.1 hcount, fun k => Vector.get_ofFn _ k⟩

theorem isDecodedFrom_setPatch {s : State} {u : List Byte} {p : DecodedPatch} (h : decodePatch s.layout u = .ok p) :
    IsDecodedFrom u (payloadStart u) (s.setPatch p).complete where
  count := by
    obtain ⟨hcount, hle, -⟩ := decodePatch_name h
    rw [complete_nameLen, setPatch_nameLen, BitVec.toNat_ofNat, ← hcount]
    omega
  name := (decodePatch_name h).2.2
  fields := decodePatch_isDecodedField h

theorem exec_decode {s : State} {u : List Byte} (h : HasInput s u) :
    exec .decode s = orRaise s (decodePatch s.layout u) fun p => .next (s.setPatch p).complete := withInput_hasInput _ h

/-- Settles O44, by the way `decodePatch` ends: with a patch, with an error, or not reached. -/
theorem decodeWritesThePatch : Obligations.DecodeWritesThePatch := by
  refine ⟨fun s u hu hok => ?_, fun s u hu hbad => ?_, fun s => exec_tooLong rfl⟩
  · obtain ⟨p, hp⟩ := decodePatch_wellFormed s.layout hok
    rw [exec_decode hu, hp]
    exact ⟨_, rfl, rfl, isDecodedFrom_setPatch hp⟩
  · rw [exec_decode hu, decodePatch_malformed _ hbad]
    rfl

end Sys2Proof.Machine
end

section
/-! 44_patch_codec.md R161, R171 to R177: the writes of an encode do not disturb each other, so each is found in the
payload; and what ENCODE_PAYLOAD writes. -/

namespace Sys2Proof

open Machine

theorem writtenByte_concat (ws : List (Nat × Byte)) (w : Nat × Byte) (o : Nat) :
    writtenByte (ws ++ [w]) o = if w.1 = o then w.2 else writtenByte ws o := by
  simp [writtenByte]

/-- R171: where all writes to a byte agree, it holds what they write. -/
theorem writtenByte_eq {ws : List (Nat × Byte)} {o : Nat} {b : Byte} (hmem : (o, b) ∈ ws)
    (hagree : ∀ c, (o, c) ∈ ws → c = b) : writtenByte ws o = b := by
  induction ws using List.reverseRecOn with
  | nil => cases hmem
  | append_singleton ws w ih =>
    obtain ⟨a, c⟩ := w
    rw [writtenByte_concat]
    split_ifs with ha
    · cases ha
      exact hagree c (by simp)
    · have hne : (o, b) ≠ (a, c) := fun h => ha (Prod.ext_iff.1 h).1.symm
      exact ih (by simpa [hne] using hmem) fun d hd => hagree d (List.mem_append_left _ hd)

/-- R176: the padding is written last. -/
theorem drop_encodePayload (L : Layout) (f : Vector (BitVec 24) 121) :
    (encodePayload L f).drop 0x85 = [0xFF, 0xFF, 0xFF] := by
  have hrange : (List.range 0x88).drop 0x85 = [0x85, 0x86, 0x87] := by decide
  rw [encodePayload, ← List.map_drop, hrange]
  simp [payloadWrites, writtenByte]

theorem map_fst_fieldWrites (L : Layout) (f : Vector (BitVec 24) 121) (i : Fin 121) :
    (fieldWrites L f i).map Prod.fst = L.fieldBytes i := by
  unfold fieldWrites Layout.fieldBytes
  cases kindAt i <;> rfl

theorem mem_fieldBytes_of_mem_fieldWrites {L : Layout} {f : Vector (BitVec 24) 121} {i : Fin 121} {o : Nat} {b : Byte}
    (h : (o, b) ∈ fieldWrites L f i) : o ∈ L.fieldBytes i := by
  rw [← map_fst_fieldWrites L f]
  exact List.mem_map_of_mem h

theorem fieldWrites_curve (L : Layout) (f : Vector (BitVec 24) 121) {i : Fin 121}
    (hi : kindAt i = .bit0 ∨ kindAt i = .bit4) :
    fieldWrites L f i = [(L.off.get i, curveByte f (operatorOf i))] := by
  rcases hi with hi | hi <;> rw [fieldWrites, hi]

/-- The field whose writes stand for those of field i: the curve byte of an operator is LCURVE's. -/
def claimingField (i : Fin 121) : Fin 121 := if kindAt i = .bit4 then lCurveAt (operatorOf i) else i

theorem kindAt_claimingField (i : Fin 121) : kindAt (claimingField i) ≠ .bit4 := by
  rw [claimingField]
  split_ifs with hi
  · rw [kindAt_lCurveAt]
    decide
  · exact hi

section WellFormed

variable {L : Layout} (hL : L.wf = true)
include hL

/-- R166 condition 3, R175: both curve fields of an operator write the same byte at the same offset. -/
theorem fieldWrites_claimingField (f : Vector (BitVec 24) 121) (i : Fin 121) :
    fieldWrites L f (claimingField i) = fieldWrites L f i := by
  rw [claimingField]
  split_ifs with hi
  · rw [fieldWrites_curve L f (.inl (kindAt_lCurveAt _)), fieldWrites_curve L f (.inr hi), operatorOf_lCurveAt,
      ← Layout.off_rCurveAt hL, rCurveAt_operatorOf hi]
  · rfl

/-- R166 condition 4: all writes of an encode to one byte agree. -/
theorem fieldWrites_agree {f : Vector (BitVec 24) 121} {i j : Fin 121} {o : Nat} {b c : Byte}
    (hb : (o, b) ∈ fieldWrites L f i) (hc : (o, c) ∈ fieldWrites L f j) : b = c := by
  rw [← fieldWrites_claimingField hL] at hb hc
  have hsame : claimingField i = claimingField j := Layout.field_unique hL (kindAt_claimingField i)
    (kindAt_claimingField j) (mem_fieldBytes_of_mem_fieldWrites hb) (mem_fieldBytes_of_mem_fieldWrites hc)
  rw [← hsame] at hc
  have hnodup := Layout.nodup_fieldBytes hL (kindAt_claimingField i)
  rw [← map_fst_fieldWrites L f] at hnodup
  exact (Prod.ext_iff.1 (List.inj_on_of_nodup_map hnodup hb hc rfl)).2

/-- R171: every byte that a field writes is found in the payload. -/
theorem encodePayload_getD {f : Vector (BitVec 24) 121} {i : Fin 121} {o : Nat} {b : Byte}
    (h : (o, b) ∈ fieldWrites L f i) : (encodePayload L f).getD o 0 = b := by
  have ho : o ≤ 0x84 := Layout.le_of_mem_fieldBytes hL (mem_fieldBytes_of_mem_fieldWrites h)
  have hmem : (o, b) ∈ payloadWrites L f :=
    List.mem_append_left _ (List.mem_flatMap.2 ⟨i, List.mem_finRange i, h⟩)
  have hagree (c : Byte) (hc : (o, c) ∈ payloadWrites L f) : c = b := by
    rcases List.mem_append.1 hc with hc | hpad
    · obtain ⟨j, -, hj⟩ := List.mem_flatMap.1 hc
      exact fieldWrites_agree hL hj h
    · simp only [List.mem_cons, Prod.mk.injEq, List.not_mem_nil, or_false] at hpad
      omega
  have hlt : o < (encodePayload L f).length := by
    rw [encodePayload_length]
    omega
  rw [List.getD_eq_getElem _ _ hlt, ← writtenByte_eq hmem hagree]
  simp [encodePayload]

end WellFormed

end Sys2Proof

namespace Sys2Proof.Machine

theorem layout_wf (p : CheckedParams) : p.1.layout.wf = true := by
  have h := p.2
  rw [Params.wf, Bool.and_eq_true] at h
  exact h.2

/-- R161, R172 to R175: the encode column, kind by kind. -/
theorem isPayload_encodePayload {L : Layout} (hL : L.wf = true) (f : Vector (BitVec 24) 121) :
    IsPayload L f (encodePayload L f) where
  length := encodePayload_length L f
  padding := drop_encodePayload L f
  fields i := by
    have hat {o : Nat} {b : Byte} : (o, b) ∈ fieldWrites L f i → (encodePayload L f).getD o 0 = b :=
      encodePayload_getD hL
    have hcurve (hi : kindAt i = .bit0 ∨ kindAt i = .bit4) :
        (encodePayload L f).getD (L.off.get i) 0 = 0#3 ++ (f.get (rCurveAt (operatorOf i))).extractLsb' 0 1 ++ 0#3 ++
          (f.get (lCurveAt (operatorOf i))).extractLsb' 0 1 := by
      rw [← curveByte_eq]
      exact hat (by simp [fieldWrites_curve L f hi])
    cases hi : kindAt i with
    | u8 =>
      simp only [fieldWrites, fieldValue, hi] at hat
      exact (hat (.head _)).trans (byteOf_zextN _ (by decide))
    | s8 =>
      simp only [fieldWrites, fieldValue, hi] at hat
      exact (hat (.head _)).trans (toUnsignedByte_sextN _)
    | u16 =>
      simp only [fieldWrites, fieldValue, hi] at hat
      exact ⟨(hat (.head _)).trans (byteOf_zextN _ (by decide)),
        (hat (.tail _ (.head _))).trans (byteOf_zextN _ (by decide))⟩
    | u24 =>
      simp only [fieldWrites, fieldValue, hi] at hat
      exact ⟨(hat (.head _)).trans (byteOf_zextN _ (by decide)),
        (hat (.tail _ (.head _))).trans (byteOf_zextN _ (by decide)),
        (hat (.tail _ (.tail _ (.head _)))).trans (byteOf_zextN _ (by decide))⟩
    | fb =>
      simp only [fieldWrites, hi, fieldValue_fb hi] at hat
      exact ⟨(hat (.head _)).trans (toUnsignedByte_feedbackSign _),
        (hat (.tail _ (.head _))).trans (toUnsignedByte_eq_ofInt _)⟩
    | bit0 =>
      have h := hcurve (.inl hi)
      rwa [lCurveAt_operatorOf hi] at h
    | bit4 =>
      have h := hcurve (.inr hi)
      rwa [rCurveAt_operatorOf hi] at h

theorem exec_encodePayload (s : State) : exec .encodePayload s = finishWithBytes s (encodePayload s.layout s.f) := rfl

/-- Settles O46: the payload fits every OBUF. -/
theorem encodePayloadWritesThePayload : Obligations.EncodePayloadWritesThePayload := by
  intro s
  have hlen := encodePayload_length s.layout s.f
  have hfit : (encodePayload s.layout s.f).length ≤ s.outCap := by
    rw [hlen]
    exact Nat.le_trans (by decide) (outCap_ge s)
  obtain ⟨t, ht⟩ := finishWithBytes_stores s hfit
  rw [hlen, ← exec_encodePayload] at ht
  exact ⟨_, t, isPayload_encodePayload (layout_wf s.par) s.f, ht⟩

end Sys2Proof.Machine
end

section
/-! 44_patch_codec.md R178, R179: decoding an encoded payload, field by field. -/

namespace Sys2Proof.Machine

theorem zero_append_extractLsb' {m n : Nat} {x : BitVec (m + n)} (hx : x.toNat < 2 ^ n) :
    0#m ++ x.extractLsb' 0 n = x := by
  rw [← setWidth_eq_zero_append]
  refine BitVec.eq_of_toNat_eq ?_
  rw [BitVec.toNat_setWidth_of_le (Nat.le_add_left n m), BitVec.extractLsb'_toNat, Nat.shiftRight_zero,
    Nat.mod_eq_of_lt hx]

theorem append_cellBytes (x : BitVec 24) : x.extractLsb' 16 8 ++ x.extractLsb' 8 8 ++ x.extractLsb' 0 8 = x := by
  have hx := x.isLt
  rw [← ofNat_bytes]
  refine BitVec.eq_of_toNat_eq ?_
  simp only [BitVec.toNat_ofNat, BitVec.extractLsb'_toNat, Nat.shiftRight_eq_div_pow]
  omega

/-- R169, R175: the two curve bits of a curve byte. -/
theorem curveBits (r l : BitVec 1) :
    BitVec.ofBool ((0#3 ++ r ++ 0#3 ++ l).getLsbD 0) = l ∧ BitVec.ofBool ((0#3 ++ r ++ 0#3 ++ l).getLsbD 4) = r := by
  revert r l
  decide

/-- R178: the bytes of a field that is not FB hold all bits of its cell. -/
theorem IsDecodedField.eq_of_isPayload {L : Layout} {f : Vector (BitVec 24) 121} {pl : List Byte} {i : Fin 121}
    {c : BitVec 24} (hc : IsDecodedField L pl i c) (hpl : IsPayload L f pl)
    (hfit : (f.get i).toNat < 2 ^ (kindAt i).width) (hfb : kindAt i ≠ .fb) : c = f.get i := by
  have hi := hpl.fields i
  unfold IsDecodedField at hc
  generalize kindAt i = k at hc hi hfit hfb
  cases k with
  | u8 | s8 =>
    dsimp only at hc hi
    rw [hc, hi]
    exact zero_append_extractLsb' (m := 16) hfit
  | u16 =>
    obtain ⟨h0, h1⟩ := hi
    have htop : (f.get i).extractLsb' 16 8 = 0#8 := by
      have hquot : (f.get i).toNat / 2 ^ 16 = 0 := Nat.div_eq_of_lt hfit
      refine BitVec.eq_of_toNat_eq ?_
      rw [BitVec.extractLsb'_toNat, Nat.shiftRight_eq_div_pow, hquot]
      rfl
    rw [hc, h0, h1, ← htop]
    exact append_cellBytes _
  | u24 =>
    obtain ⟨h0, h1, h2⟩ := hi
    rw [hc, h0, h1, h2]
    exact append_cellBytes _
  | fb => exact absurd rfl hfb
  | bit0 =>
    dsimp only at hc hi
    rw [hc, hi, (curveBits _ _).1]
    exact zero_append_extractLsb' (m := 23) hfit
  | bit4 =>
    dsimp only at hc hi
    rw [hc, hi, (curveBits _ _).2]
    exact zero_append_extractLsb' (m := 23) hfit

/-- R179: the decoded value is the rule's, with the bytes of R172 and R173; it fits the 16 bits of the register. -/
theorem IsDecodedField.feedback_of_isPayload {L : Layout} {f : Vector (BitVec 24) 121} {pl : List Byte} {i : Fin 121}
    {c : BitVec 24} (hc : IsDecodedField L pl i c) (hpl : IsPayload L f pl) (hfb : kindAt i = .fb) :
    fieldValue i c = feedbackRoundTrip (fieldValue i (f.get i)) := by
  have hi := hpl.fields i
  rw [IsDecodedField, hfb] at hc
  rw [hfb] at hi
  rw [fieldValue_fb hfb, fieldValue_fb hfb]
  generalize ((f.get i).extractLsb' 0 16).toInt = v at hi
  obtain ⟨hlo, hhi⟩ := hi
  rw [hlo, hhi] at hc
  have hsign : BitVec.toInt (if v < 0 ∧ v % 10 ≠ 0 then (0xFF : Byte) else 0x01) =
      if v < 0 ∧ v % 10 ≠ 0 then -1 else 1 := apply_ite BitVec.toInt ..
  have hlt := BitVec.toInt_lt (x := BitVec.ofInt 8 (v / 10))
  have hle := BitVec.le_toInt (x := BitVec.ofInt 8 (v / 10))
  rw [hc, BitVec.extractLsb'_append_eq_right, BitVec.toInt_ofInt, hsign, feedbackRoundTrip, toSigned_eq_toInt,
    toUnsignedByte_eq_ofInt, mul_comm]
  refine Int.bmod_eq_of_le ?_ ?_ <;> split <;> omega

/-- R179: the quotient wraps modulo 256 like every byte. -/
theorem feedbackRoundTrip_eq (v : Int) :
    feedbackRoundTrip v = 10 * (v / 10).bmod 256 + (if v < 0 ∧ v % 10 ≠ 0 then -1 else 1) := by
  rw [feedbackRoundTrip, toSigned_toUnsignedByte]

theorem feedbackRoundTrip_closedForm {v : Int} (hl : -1280 ≤ v) (hu : v ≤ 1279) :
    feedbackRoundTrip v =
      (if 0 ≤ v then v - v % 10 + 1 else if v % 10 = 0 then v + 1 else v - v % 10 - 1) := by
  rw [feedbackRoundTrip_eq, Int.bmod_eq_of_le (by omega) (by omega)]
  split_ifs <;> omega

/-- R179: a value comes back only if its quotient does not wrap and its last digit is the sign +1. -/
theorem feedbackRoundTrip_eq_self_iff (v : Int) : feedbackRoundTrip v = v ↔ 1 ≤ v ∧ v ≤ 1271 ∧ v % 10 = 1 := by
  have hwrap := Int.bmod_add_bdiv (v / 10) 256
  have hlt := Int.bmod_lt (x := v / 10) (m := 256) (by decide)
  have hle := Int.le_bmod (x := v / 10) (m := 256) (by decide)
  rw [feedbackRoundTrip_eq]
  split_ifs <;> omega

theorem isDecodedField_of_encodePayload {p : CheckedParams} {f : Vector (BitVec 24) 121} {u : List Byte}
    {r : DecodedPatch} (hr : decodePatch p.1.layout u = .ok r)
    (hu : (u.drop (payloadStart u)).take 0x88 = encodePayload p.1.layout f) (i : Fin 121) :
    IsDecodedField p.1.layout (encodePayload p.1.layout f) i (r.fields.get i) :=
  hu ▸ decodePatch_isDecodedField hr i

/-- Settles O47: the payload holds every bit of the field. -/
theorem fieldsSurviveEncodeThenDecode : Obligations.FieldsSurviveEncodeThenDecode := fun p f _ _ hfit hr hu i hfb =>
  (isDecodedField_of_encodePayload hr hu i).eq_of_isPayload (isPayload_encodePayload (layout_wf p) f) (hfit i) hfb

/-- Settles O48, by the bytes of an encoded Feedback value and the wrap of its quotient modulo 256. -/
theorem feedbackRoundTripIsTheStatedRule : Obligations.FeedbackRoundTripIsTheStatedRule := by
  refine ⟨fun p f u r i hfb hr hu => ?_, fun v => feedbackRoundTrip_closedForm,
    fun v _ _ => feedbackRoundTrip_eq_self_iff v, ?_⟩
  · exact (isDecodedField_of_encodePayload hr hu i).feedback_of_isPayload (isPayload_encodePayload (layout_wf p) f) hfb
  · decide

end Sys2Proof.Machine
end

section
/-! 45_framer.md R201, R202: a framed message is the packed form of its header, SEQ and body, it unpacks to its body, and
FRAME writes it. -/

namespace Sys2Proof.Machine

theorem header_length (s : State) : s.header.length = 8 := Vector.length_toList

theorem framePrefix_length {header : List Byte} (hh : header.length = 8) (seq : Byte) : (header ++ [seq]).length = 9 := by
  rw [List.length_append, hh, List.length_singleton]

/-- R201: the header and SEQ pass through, the body is packed, and one 0xF7 follows. -/
theorem frameMessage_eq {header : List Byte} (hh : header.length = 8) (seq : Byte) (body : List Byte) :
    frameMessage header seq body = header ++ [seq] ++ packBody body ++ [0xF7] := by
  have hprefix := framePrefix_length hh seq
  rw [frameMessage, packMessage, List.take_left' hprefix, List.drop_left' hprefix]

theorem frameMessage_isPacked {header : List Byte} (hh : header.length = 8) (seq : Byte) (body : List Byte) :
    ∃ q, frameMessage header seq body = q ++ [0xF7] ∧ IsPacked (header ++ [seq]) body q :=
  ⟨_, frameMessage_eq hh seq body, isPacked_packBody (framePrefix_length hh seq) body⟩

/-- 41_bitpacker.md R116: the terminator is stripped and the body comes back. -/
theorem unpack78_frameMessage {header : List Byte} (hh : header.length = 8) (seq : Byte) {body : List Byte}
    (hne : body ≠ []) : unpack78 (frameMessage header seq body) = .ok body := by
  have hprefix := framePrefix_length hh seq
  obtain ⟨q, hq, hunpack, -⟩ := packThenUnpackIsIdentity (header ++ [seq]) body hprefix
  obtain rfl : header ++ [seq] ++ packBody body = q := Except.ok.inj ((pack87_append hprefix body).symm.trans hq)
  rw [frameMessage_eq hh]
  exact (hunpack hne).2

theorem exec_frame {s : State} {b : List Byte} (h : HasInput s b) (seq : Byte) :
    exec (.frame seq) s = finishWithBytes s (frameMessage s.header seq b) := withInput_hasInput _ h

/-- Settles O37: the framed message fits or it does not, or the check of IN_LEN comes first. -/
theorem frameWritesTheFramedMessage : Obligations.FrameWritesTheFramedMessage := by
  refine ⟨fun s seq b hb => ?_, fun s seq => exec_tooLong rfl⟩
  obtain ⟨q, hq, hpacked⟩ := frameMessage_isPacked (header_length s) seq b
  have hlen : (q ++ [0xF7]).length = 10 + b.length + (b.length + 6) / 7 := by
    rw [List.length_append, hpacked.length, List.length_singleton]
    omega
  rw [← hlen, exec_frame hb, hq]
  refine ⟨fun hfit => ?_, finishWithBytes_tooLong s _⟩
  obtain ⟨t, ht⟩ := finishWithBytes_stores s hfit
  rw [List.length_append] at ht
  exact ⟨q, t, hpacked, ht⟩

end Sys2Proof.Machine
end

section
/-! 45_framer.md R212 to R214: what `decodeInbound` makes of a message, and what DECODE_INBOUND writes. -/

namespace Sys2Proof.Machine

/-- R212, R214: a message of more than 20 bytes that unpacks is decoded, with no other check. -/
theorem decodeInbound_eq_decodePatch (L : Layout) {b u : List Byte} (hlen : 20 < b.length) (hu : unpack78 b = .ok u) :
    decodeInbound L b = decodePatch L u := by
  rw [decodeInbound, if_neg (by omega), hu]

theorem decodeInbound_malformed (L : Layout) {b : List Byte}
    (h : b.length ≤ 20 ∨ unpackMalformed b ∨ ∃ d u, IsBodyOf b d ∧ IsUnpacked d u ∧ decodeMalformed u) :
    decodeInbound L b = .error .malformedBuffer := by
  by_cases hlen : b.length ≤ 20
  · exact if_pos hlen
  by_cases hbad : unpackMalformed b
  · rw [decodeInbound, if_neg hlen, unpack78_malformed hbad]
  obtain ⟨d, u, hbody, hu, hmalformed⟩ := (h.resolve_left hlen).resolve_left hbad
  have hunpack : unpack78 b = .ok (unpackBody d) :=
    hbody.unpack78_ok (fun hnil => hbad (.inr ⟨d, hbody, .inl hnil⟩)) fun hlone => hbad (.inr ⟨d, hbody, .inr hlone⟩)
  obtain rfl := (isUnpacked_unpackBody d).unique hu
  rw [decodeInbound_eq_decodePatch L (Nat.not_le.1 hlen) hunpack, decodePatch_malformed L hmalformed]

theorem exec_decodeInbound {s : State} {b : List Byte} (h : HasInput s b) :
    exec .decodeInbound s = orRaise s (decodeInbound s.layout b) fun p => .next (s.setPatch p).complete :=
  withInput_hasInput _ h

/-- Settles O45, by the way `decodeInbound` ends: with a patch, with an error, or not reached. -/
theorem decodeInboundWritesThePatch : Obligations.DecodeInboundWritesThePatch := by
  refine ⟨fun s b d u hb hlen hbody hne hlone hu hok => ?_, fun s b hb hbad => ?_, fun s => exec_tooLong rfl⟩
  · obtain rfl := (isUnpacked_unpackBody d).unique hu
    obtain ⟨p, hp⟩ := decodePatch_wellFormed s.layout hok
    rw [exec_decodeInbound hb, decodeInbound_eq_decodePatch _ hlen (hbody.unpack78_ok hne hlone), hp]
    exact ⟨_, rfl, rfl, isDecodedFrom_setPatch hp⟩
  · rw [exec_decodeInbound hb, decodeInbound_malformed _ hbad]
    rfl

end Sys2Proof.Machine
end

section
/-! 45_framer.md R203 to R205, 44_patch_codec.md R162 to R164: the raw bytes of messages 1 and 2 of a burst, and what a
decoder finds in those of message 2. -/

namespace Sys2Proof.Machine

theorem le32_nameLength {nl : Nat} (h : nl ≤ 8) : le32 (BitVec.ofNat 32 nl) = [BitVec.ofNat 8 nl, 0, 0, 0] := by
  interval_cases nl <;> rfl

theorem declareBody_eq (nl : Nat) : declareBody nl = [4, 0, 0, 0, if nl = 4 then 0xBC else 0xC0, 0, 0, 0] := by
  rw [declareBody, frameSize]
  split <;> rfl

theorem dataBody_eq_rawDataMessage {nl : Nat} (h : nl ≤ 8) (name payload : List Byte) :
    dataBody nl name payload = rawDataMessage nl name payload := by
  rw [dataBody, rawDataMessage, le32_nameLength h, nameArea, nameAreaSize, frameSize, recordLength]
  split <;> simp [tagFMTC, tagFMNM, tagTPDT, le32]

section RawData

variable {nl : Nat} {name payload : List Byte}

/-- 44_patch_codec.md R163: the FMNM record length tells the two layouts apart. -/
theorem payloadStart_rawDataMessage : payloadStart (rawDataMessage nl name payload) = if nl = 4 then 0x34 else 0x38 := by
  have hbyte : byteAt (rawDataMessage nl name payload) 0x14 = if nl = 4 then 0x14 else 0x18 := rfl
  rw [payloadStart, hbyte]
  split <;> rfl

theorem nameCount_rawDataMessage : (rawDataMessage nl name payload).getD 0x1C 0 = BitVec.ofNat 8 nl := rfl

theorem nameByte_rawDataMessage {k : Nat} (hk : k < name.length) :
    (rawDataMessage nl name payload).getD (0x20 + k) 0 = name.getD k 0 := by
  rw [rawDataMessage, List.append_assoc, List.append_assoc, List.append_assoc, ← getD_drop,
    List.drop_left' (i := 0x20) rfl, List.getD_append _ _ _ _ hk]

variable (hname : name.length = nl) (h4 : 4 ≤ nl) (h8 : nl ≤ 8)

include hname h4 h8

theorem rawDataMessage_length :
    (rawDataMessage nl name payload).length = payloadStart (rawDataMessage nl name payload) + payload.length := by
  rw [payloadStart_rawDataMessage]
  simp only [rawDataMessage, List.length_append, List.length_cons, List.length_nil, List.length_replicate, hname]
  split <;> omega

/-- 44_patch_codec.md R162: the payload is the end of the message. -/
theorem drop_payloadStart_rawDataMessage :
    (rawDataMessage nl name payload).drop (payloadStart (rawDataMessage nl name payload)) = payload := by
  have hlen := rawDataMessage_length (payload := payload) hname h4 h8
  rw [rawDataMessage, List.length_append] at hlen
  exact List.drop_left' (Nat.add_right_cancel hlen)

end RawData

end Sys2Proof.Machine
end

section
/-! 45_framer.md R203 to R211: the messages of a burst, where they lie in OBUF, and what ENCODE_BURST writes. -/

namespace Sys2Proof.Machine

/-- Message 2's raw bytes after the header and SEQ (R205), from the registers ENCODE_BURST reads. -/
def State.rawData (s : State) : List Byte :=
  rawDataMessage s.nameLen.toNat (s.nameBytes s.nameLen.toNat) (encodePayload s.layout s.f)

theorem toNat_nameLen_eq_four (s : State) : s.nameLen.toNat = 4 ↔ s.nameLen = 4 := BitVec.toNat_inj (y := 4)

theorem burst_m1_eq (s : State) : s.burst.m1 = frameMessage s.header 0x01 (declareBody s.nameLen.toNat) := rfl

theorem burst_m3_eq (s : State) : s.burst.m3 = frameMessage s.header 0x03 (le32 s.burst.crc) := rfl

theorem burst_m1_length (s : State) : s.burst.m1.length = 20 := by
  rw [burst_m1_eq, frameMessage_length, header_length, declareBody_length]

theorem burst_m3_length (s : State) : s.burst.m3.length = 15 := by
  rw [burst_m3_eq, frameMessage_length, header_length, le32_length]

section NameLength

variable {s : State} (h4 : 4 ≤ s.nameLen.toNat) (h8 : s.nameLen.toNat ≤ 8)

include h8

theorem nameBytes_length : (s.nameBytes s.nameLen.toNat).length = s.nameLen.toNat := by simp [State.nameBytes, h8]

theorem burst_m2_eq : s.burst.m2 = frameMessage s.header 0x02 s.rawData := by
  rw [State.rawData, ← dataBody_eq_rawDataMessage h8]
  rfl

/-- R207, R208. -/
theorem burst_crc_eq : s.burst.crc = crc32 s.rawData := by
  rw [State.rawData, ← dataBody_eq_rawDataMessage h8]
  rfl

include h4

theorem rawData_length : s.rawData.length = if s.nameLen = 4 then 188 else 192 := by
  rw [State.rawData, rawDataMessage_length (nameBytes_length h8) h4 h8, payloadStart_rawDataMessage, encodePayload_length]
  simp only [toNat_nameLen_eq_four]
  split <;> rfl

/-- R204: the frame size that message 1 declares is the raw length of message 2. -/
theorem declareBody_eq_rawData_length :
    declareBody s.nameLen.toNat = le32 4 ++ le32 (BitVec.ofNat 32 s.rawData.length) := by
  rw [declareBody, frameSize, rawData_length h4 h8]
  simp only [toNat_nameLen_eq_four]
  split <;> rfl

/-- R209. -/
theorem burst_m2_length : s.burst.m2.length = if s.nameLen = 4 then 225 else 230 := by
  rw [burst_m2_eq h8, frameMessage_length, header_length, rawData_length h4 h8]
  split <;> rfl

theorem exec_encodeBurst_stores : exec .encodeBurst s = .next (s.storeBurst s.burst).complete :=
  exec_encodeBurst (not_or.2 ⟨Nat.not_lt.2 h4, Nat.not_lt.2 h8⟩)

/-- R210: what ENCODE_BURST changes, with the values of the length registers. -/
theorem storeBurst_complete_eq :
    (s.storeBurst s.burst).complete = { s with
      mem := (s.storeBurst s.burst).mem, crc := s.burst.crc
      msgLen0 := 20, msgLen1 := if s.nameLen = 4 then 225 else 230, msgLen2 := 15
      outLen := if s.nameLen = 4 then 260 else 265
      status := successStatus s.status } := by
  simp only [State.complete, State.storeBurst, burst_m1_length, burst_m2_length h4 h8, burst_m3_length]
  split <;> rfl

end NameLength

/-- R210: the three messages lie back to back in OBUF. -/
theorem storeBurst_obufHolds (s : State) (b : Burst) :
    ObufHolds (s.storeBurst b) 0 b.m1 ∧ ObufHolds (s.storeBurst b) b.m1.length b.m2 ∧
      ObufHolds (s.storeBurst b) (b.m1.length + b.m2.length) b.m3 := by
  refine ⟨fun k hk => ?_, fun k hk => ?_, read_writeBytes_inside _ (obufBase + (b.m1.length + b.m2.length)) b.m3⟩
  · rw [storeBurst_mem, read_writeBytes_outside _ _ _ _ (by omega), read_writeBytes_outside _ _ _ _ (by omega)]
    exact read_writeBytes_inside s.mem (obufBase + 0) b.m1 k hk
  · rw [storeBurst_mem, read_writeBytes_outside _ _ _ _ (by omega)]
    exact read_writeBytes_inside _ (obufBase + b.m1.length) b.m2 k hk

/-- 10_state.md R30: the host finds each message by the lengths. -/
theorem storeBurst_burstMessage {s : State} {b : Burst} (h : b.m1.length + b.m2.length + b.m3.length ≤ s.outCap) :
    (s.storeBurst b).burstMessage 0 = some b.m1 ∧ (s.storeBurst b).burstMessage 1 = some b.m2 ∧
      (s.storeBurst b).burstMessage 2 = some b.m3 := by
  obtain ⟨h1, h2, h3⟩ := storeBurst_obufHolds s b
  have hl1 : (s.storeBurst b).msgLen0.toNat = b.m1.length := toNat_outLen (s := s) (by omega)
  have hl2 : (s.storeBurst b).msgLen1.toNat = b.m2.length := toNat_outLen (s := s) (by omega)
  have hl3 : (s.storeBurst b).msgLen2.toNat = b.m3.length := toNat_outLen (s := s) (by omega)
  simp only [State.burstMessage, hl1, hl2, hl3, readBytes_eq_some, true_and, Nat.add_assoc obufBase b.m1.length b.m2.length]
  exact ⟨h1, h2, h3⟩

/-- R211: what the host finds after ENCODE_BURST. -/
theorem burstMessage_encodeBurst {s t : State} (h4 : 4 ≤ s.nameLen.toNat) (h8 : s.nameLen.toNat ≤ 8)
    (h : exec .encodeBurst s = .next t) :
    t.burstMessage 0 = some s.burst.m1 ∧ t.burstMessage 1 = some s.burst.m2 ∧ t.burstMessage 2 = some s.burst.m3 ∧
      t.crc = s.burst.crc := by
  obtain rfl := Host.Outcome.next.inj ((exec_encodeBurst_stores h4 h8).symm.trans h)
  obtain ⟨h1, h2, h3⟩ := storeBurst_burstMessage ((burst_length_le s h8).trans (outCap_ge s))
  exact ⟨h1, h2, h3, rfl⟩

/-- R201, R204. -/
theorem burst_m1_framed (s : State) :
    ∃ q, s.burst.m1 = q ++ [0xF7] ∧
      IsPacked (s.header ++ [0x01]) [4, 0, 0, 0, if s.nameLen = 4 then 0xBC else 0xC0, 0, 0, 0] q ∧ q.length = 19 := by
  obtain ⟨q, hm, hq⟩ := frameMessage_isPacked (header_length s) 0x01 (declareBody s.nameLen.toNat)
  have hlen : q.length = 19 := by rw [hq.length, declareBody_length]
  rw [declareBody_eq] at hq
  simp only [toNat_nameLen_eq_four] at hq
  exact ⟨q, hm, hq, hlen⟩

/-- R201, R205. -/
theorem burst_m2_framed {s : State} (h4 : 4 ≤ s.nameLen.toNat) (h8 : s.nameLen.toNat ≤ 8) :
    ∃ q, s.burst.m2 = q ++ [0xF7] ∧ IsPacked (s.header ++ [0x02]) s.rawData q ∧
      q.length = if s.nameLen = 4 then 224 else 229 := by
  obtain ⟨q, hm, hq⟩ := frameMessage_isPacked (header_length s) 0x02 s.rawData
  refine ⟨q, (burst_m2_eq h8).trans hm, hq, ?_⟩
  rw [hq.length, rawData_length h4 h8]
  split <;> rfl

/-- R201, R207. -/
theorem burst_m3_framed (s : State) :
    ∃ q, s.burst.m3 = q ++ [0xF7] ∧ IsPacked (s.header ++ [0x03]) (le32 s.burst.crc) q ∧ q.length = 14 := by
  obtain ⟨q, hm, hq⟩ := frameMessage_isPacked (header_length s) 0x03 (le32 s.burst.crc)
  exact ⟨q, hm, hq, by rw [hq.length, le32_length]⟩

/-- Settles O50: the three messages are framed, have the lengths of R209 and lie back to back; a name of another length
is refused. -/
theorem encodeBurstWritesThreeMessages : Obligations.EncodeBurstWritesThreeMessages := by
  refine ⟨fun s h4 h8 => ?_, fun s => exec_encodeBurst_nameLength⟩
  obtain ⟨q1, hm1, hq1, hlen1⟩ := burst_m1_framed s
  obtain ⟨q2, hm2, hq2, hlen2⟩ := burst_m2_framed h4 h8
  obtain ⟨q3, hm3, hq3, hlen3⟩ := burst_m3_framed s
  have hexec := exec_encodeBurst_stores h4 h8
  have hregs := storeBurst_complete_eq h4 h8
  have hcrc : s.burst.crc = crcBitSerial s.rawData := (burst_crc_eq h8).trans (crcFoldIsBitSerial _)
  obtain ⟨hobuf1, hobuf2, hobuf3⟩ := storeBurst_obufHolds s s.burst
  rw [hm1] at hobuf1
  rw [burst_m1_length, hm2] at hobuf2
  rw [burst_m1_length, burst_m2_length h4 h8, hm3] at hobuf3
  obtain ⟨-, hframe, -⟩ := commandsWriteOnlyTheirResults _ _ _ hexec
  have hout : (s.storeBurst s.burst).complete.outLen.toNat = if s.nameLen = 4 then 260 else 265 := by
    rw [hregs]
    exact apply_ite BitVec.toNat ..
  rw [hout] at hframe
  exact ⟨_, q1, q2, q3, _, isPayload_encodePayload (layout_wf s.par) s.f, hq1, hq2, hq3, hcrc, hexec, hregs,
    hobuf1, hobuf2, hobuf3, hlen1, hlen2, hlen3, hframe⟩

/-- Settles O52: each message is a frame of R201, so it unpacks to its raw bytes. -/
theorem burstChecksumMatchesItsData : Obligations.BurstChecksumMatchesItsData := by
  intro s t h4 h8 h
  obtain ⟨h1, h2, h3, hcrc⟩ := burstMessage_encodeBurst h4 h8 h
  have hne : s.rawData ≠ [] := List.cons_ne_nil _ _
  refine ⟨_, _, _, _, s.rawData, h1, h2, h3, unpack78_frameMessage (header_length s) 0x01 (List.cons_ne_nil _ _),
    declareBody_eq_rawData_length h4 h8, ?_, ?_, hcrc.trans (burst_crc_eq h8)⟩
  · rw [burst_m2_eq h8]
    exact unpack78_frameMessage (header_length s) 0x02 hne
  · rw [← burst_crc_eq h8]
    exact unpack78_frameMessage (header_length s) 0x03 (List.cons_ne_nil _ _)

end Sys2Proof.Machine
end

section
/-! 45_framer.md R215: DECODE_INBOUND of message 2 of a burst. -/

namespace Sys2Proof.Machine

section NameLength

variable {s : State} (h4 : 4 ≤ s.nameLen.toNat) (h8 : s.nameLen.toNat ≤ 8)

include h8

theorem nameCount_rawData : (s.rawData.getD 0x1C 0).toNat = s.nameLen.toNat := by
  rw [State.rawData, nameCount_rawDataMessage, BitVec.toNat_ofNat, Nat.mod_eq_of_lt (by omega)]

theorem nameByte_rawData {k : Fin 8} (hk : k.val < s.nameLen.toNat) : s.rawData.getD (0x20 + k.val) 0 = s.name.get k := by
  rw [State.rawData, nameByte_rawDataMessage (by rwa [nameBytes_length h8])]
  simp [State.nameBytes, hk, Vector.get]

include h4

theorem payload_rawData : s.rawData.drop (payloadStart s.rawData) = encodePayload s.layout s.f :=
  drop_payloadStart_rawDataMessage (nameBytes_length h8) h4 h8

theorem rawData_length_eq_payloadStart : s.rawData.length = payloadStart s.rawData + 0x88 := by
  rw [← encodePayload_length s.layout s.f]
  exact rawDataMessage_length (nameBytes_length h8) h4 h8

theorem rawData_wellFormed : ¬ decodeMalformed s.rawData := by
  have hlen := rawData_length_eq_payloadStart h4 h8
  rw [decodeMalformed, nameCount_rawData h8]
  rintro (hshort | hpayload | hcount)
  · omega
  · exact Nat.ne_of_lt hpayload hlen
  · omega

end NameLength

/-- Settles O53: message 2 unpacks to a buffer whose count, characters and payload are those of the patch. -/
theorem burstDecodesBackToItsPatch : Obligations.BurstDecodesBackToItsPatch := by
  intro s t v m2 h4 h8 hfit h hm2 hpar hinput
  obtain ⟨-, hmessage, -, -⟩ := burstMessage_encodeBurst h4 h8 h
  obtain rfl : s.burst.m2 = m2 := Option.some.inj (hmessage.symm.trans hm2)
  have hunpack : unpack78 s.burst.m2 = .ok s.rawData := by
    rw [burst_m2_eq h8]
    exact unpack78_frameMessage (header_length s) 0x02 (List.cons_ne_nil _ _)
  refine ⟨⟨s.rawData, _, isPayload_encodePayload (layout_wf s.par) s.f, rfl, hunpack,
    rawData_length_eq_payloadStart h4 h8⟩, ?_⟩
  obtain ⟨p, hp⟩ := decodePatch_wellFormed s.layout (rawData_wellFormed h4 h8)
  have hlong : 20 < s.burst.m2.length := by
    rw [burst_m2_length h4 h8]
    split <;> decide
  have hpayload : (s.rawData.drop (payloadStart s.rawData)).take 0x88 = encodePayload s.layout s.f := by
    rw [payload_rawData h4 h8, List.take_of_length_le (Nat.le_of_eq (encodePayload_length _ _))]
  obtain ⟨hcount, -, hname⟩ := decodePatch_name hp
  rw [nameCount_rawData h8] at hcount hname
  have hexec : exec .decodeInbound v = .next (v.setPatch p).complete := by
    have hlayout : v.layout = s.layout := by rw [State.layout, hpar]
    rw [exec_decodeInbound hinput, hlayout, decodeInbound_eq_decodePatch _ hlong hunpack, hp]
    rfl
  have hnameLen : BitVec.ofNat 4 p.count = s.nameLen := by rw [hcount, BitVec.ofNat_toNat, BitVec.setWidth_eq]
  refine ⟨_, hexec, by rw [← hnameLen]; rfl, fun k hk => ?_,
    fieldsSurviveEncodeThenDecode s.par s.f _ p hfit hp hpayload,
    fun i hi => feedbackRoundTripIsTheStatedRule.1 s.par s.f _ p i hi hp hpayload⟩
  exact (hname k).trans ((if_pos hk).trans (nameByte_rawData h8 hk))

end Sys2Proof.Machine
end

section
/-! 60_exceptions.md R248: an overrun is recorded in OVR, and what can clear it. -/

namespace Sys2Proof.Machine

/-- 10_state.md R40, R42: no completion writes OVR. -/
theorem engineStep_ovr {s t : State} (h : engineStep s = .next t) : t.status.ovr = s.status.ovr := by
  rcases engineStep_status h with h | ⟨e, h⟩ | h <;> rw [h] <;> rfl

section Recorded

variable {s : State} (ho : s.status.ovr = true)

include ho

/-- 10_state.md R23: a dropped word sets OVR again, so of all host writes only an acceptance clears it. -/
theorem hostWrite_keepsOvr (w : Width) (a : Half) (d : Word) :
    (s.hostWrite w a d).status.ovr = true ∨
    (s.status.busy = false ∧ (s.hostWrite w a d).status = Status.accepted) := by
  rcases hostWrite_cases s w a d with h | h | ⟨t, hc, -, h⟩ <;> rw [h]
  · exact .inl ho
  · cases hb : s.status.busy with
    | false => exact .inr ⟨rfl, by rw [cmdWrite_idle hb]; rfl⟩
    | true => exact .inl (by rw [cmdWrite_busy hb]; rfl)
  · exact .inl (by rw [acknowledge_status, writeTarget_status hc, ho])

theorem hostEvent_keepsOvr (op : BusOp) :
    (s.hostEvent op).status.ovr = true ∨
    (s.status.busy = false ∧ (s.hostEvent op).status = Status.accepted) ∨
    (op = .reset ∧ (s.hostEvent op).status = Status.reset) := by
  rcases hostEvent_cases s op with ⟨hs, rs, n, h, -⟩ | ⟨n, w, a, d, h⟩ | ⟨hreset, h⟩ <;> rw [h]
  · exact .inl ho
  · exact (hostWrite_keepsOvr (s := { s with draws := n }) ho w a d).imp_right .inl
  · exact .inr (.inr ⟨hreset, rfl⟩)

theorem busCycle_keepsOvr :
    s.busCycle.status.ovr = true ∨
    (s.status.busy = false ∧ s.busCycle.status = Status.accepted) ∨
    (s.host.head? = some .reset ∧ s.busCycle.status = Status.reset) := by
  rcases busCycle_cases s with h | ⟨op, rest, hhost, h⟩ <;> rw [h]
  · exact .inl ho
  · rw [hhost, List.head?_cons, Option.some_inj]
    exact hostEvent_keepsOvr (s := { s with wait := s.wait - 1, host := rest }) ho op

end Recorded

/-- Settles O5: the dropped write is `Status.overrun`; after it the engine leaves OVR alone, and a bus cycle clears it only
by acceptance or reset. -/
theorem overrunIsRecordedUntilTheNextAcceptance : Obligations.OverrunIsRecordedUntilTheNextAcceptance := by
  refine ⟨fun s w hb => ?_, fun s t h ho => ?_⟩
  · exact (hostWrite_cmd s w).trans (by rw [cmdWrite_busy hb, acknowledge_false]; rfl)
  · rcases step_next h with ⟨-, -, he⟩ | ⟨-, rfl⟩
    · exact .inl ((engineStep_ovr he).trans ho)
    · exact busCycle_keepsOvr ho

end Sys2Proof.Machine
end

section
/-! 60_exceptions.md R245: a raised error writes STATUS alone. -/

namespace Sys2Proof.Machine

/-- 10_state.md R22: STATUS is no result register. -/
theorem WroteResults.status {i : Instr} {s u : State} (h : WroteResults i s u) : u.status = s.status := by
  rw [h.frame, withResults_status]

/-- Settles O31: a command that completes without error leaves ERR as it was, so an ERR that appears was raised. -/
theorem errorsWriteOnlyStatus : Obligations.ErrorsWriteOnlyStatus := by
  intro i s t h hs ht
  rcases exec_next h with ⟨e, hillegal, hreserved, rfl⟩ | ⟨u, hu, rfl⟩
  · exact ⟨e, hillegal, hreserved, rfl⟩
  · rw [complete_status, completed_err, hu.status, hs] at ht
    cases ht

end Sys2Proof.Machine
end

section
/-! 60_exceptions.md R244: the cases in which each command raises MALFORMED_BUFFER, and that it is raised in no other. -/

namespace Sys2Proof.Machine

/-- 41_bitpacker.md R102, R103: behind a prefix there is always a body. -/
theorem exists_isBodyOf {b : List Byte} (h : 9 ≤ b.length) : ∃ d, IsBodyOf b d := by
  by_cases hlast : (b.drop 9).getLast? = some 0xF7
  · exact ⟨(b.drop 9).dropLast, h, .inl (List.dropLast_append_getLast? _ hlast).symm⟩
  · exact ⟨b.drop 9, h, .inr ⟨rfl, hlast⟩⟩

theorem unpack78_wellFormed {b : List Byte} (h : ¬ unpackMalformed b) :
    ∃ d, IsBodyOf b d ∧ unpack78 b = .ok (unpackBody d) := by
  obtain ⟨hlen, hbody⟩ := not_or.1 h
  obtain ⟨d, hd⟩ := exists_isBodyOf (Nat.not_lt.1 hlen)
  exact ⟨d, hd, hd.unpack78_ok (fun hnil => hbody ⟨d, hd, .inl hnil⟩) fun hlone => hbody ⟨d, hd, .inr hlone⟩⟩

theorem decodeInbound_wellFormed (L : Layout) {b : List Byte}
    (h : ¬ (b.length ≤ 20 ∨ unpackMalformed b ∨ ∃ d u, IsBodyOf b d ∧ IsUnpacked d u ∧ decodeMalformed u)) :
    ∃ p, decodeInbound L b = .ok p := by
  rw [not_or, not_or] at h
  obtain ⟨hlen, hunpack, hdecode⟩ := h
  obtain ⟨d, hd, hu⟩ := unpack78_wellFormed hunpack
  rw [decodeInbound_eq_decodePatch L (Nat.not_le.1 hlen) hu]
  exact decodePatch_wellFormed L fun hbad => hdecode ⟨d, _, hd, isUnpacked_unpackBody d, hbad⟩

/-- A check that fails with MALFORMED_BUFFER exactly under P, and after it nothing that raises that error: the command
reports it exactly under P. -/
theorem orRaise_malformed_iff {α : Type} {s t : State} {r : Except ErrorCode α} {k : α → Result} {P : Prop}
    (hbad : P → r = .error .malformedBuffer) (hok : ¬ P → ∃ a, r = .ok a) (hk : ∀ a, Avoids .malformedBuffer (k a))
    (h : orRaise s r k = .next t) : t.status.ecode = ErrorCode.malformedBuffer.code ↔ P := by
  by_cases hP : P
  · rw [hbad hP] at h
    cases h
    exact iff_of_true rfl hP
  · obtain ⟨a, ha⟩ := hok hP
    rw [ha] at h
    exact iff_of_false (hk a t h) hP

theorem avoids_encodeBurst {c : ErrorCode} (hn : .nameLength ≠ c) (ho : .bufferOverflow ≠ c) {s : State}
    (hs : s.status.ecode ≠ c.code) : Avoids c (exec .encodeBurst s) := by
  change Avoids c (execEncodeBurst s)
  unfold execEncodeBurst
  split_ifs
  · exact avoids_raiseError hn s
  · exact avoids_raiseError ho s
  · exact avoids_complete hs

/-- R244 names UNPACK78, PACK87, DECODE and DECODE_INBOUND; no other command looks at what its input says. -/
theorem avoids_malformedBuffer {i : Instr} {s : State} (hi : i ∉ [.unpack78, .pack87, .decode, .decodeInbound])
    (hs : s.status.ecode ≠ ErrorCode.malformedBuffer.code) (hlen : readsIbuf i = true → s.inLen.toNat ≤ s.inCap) :
    Avoids .malformedBuffer (exec i s) := by
  have bytes := avoids_finishWithBytes (c := .malformedBuffer) (by decide) hs
  cases i with
  | unpack78 | pack87 | decode | decodeInbound => simp at hi
  | crc32 => exact avoids_withInput (hlen rfl) fun _ => avoids_complete hs
  | frame seq => exact avoids_withInput (hlen rfl) fun _ => bytes _
  | encodePayload => exact bytes _
  | toSigned | toUnsigned => exact avoids_complete hs
  | encodeBurst => exact avoids_encodeBurst (by decide) (by decide) hs

/-- Settles O34: four commands check their input, each in its own cases, and no other command raises the error. -/
theorem malformedBufferExactlyInItsCases : Obligations.MalformedBufferExactlyInItsCases := by
  intro i s t b hs hin h
  have hs' : s.status.ecode ≠ ErrorCode.malformedBuffer.code := by rw [hs]; decide
  have bytes := avoids_finishWithBytes (c := .malformedBuffer) (by decide) hs'
  have patch (p : DecodedPatch) : Avoids .malformedBuffer (.next (s.setPatch p).complete) := avoids_complete hs'
  change t.status.ecode = ErrorCode.malformedBuffer.code ↔ _
  cases i with
  | unpack78 =>
    rw [exec_unpack78 (hin rfl)] at h
    simpa using orRaise_malformed_iff unpack78_malformed (fun hok => (unpack78_wellFormed hok).imp' _ fun _ => And.right)
      bytes h
  | pack87 =>
    rw [exec_pack87 (hin rfl)] at h
    simpa using orRaise_malformed_iff pack87_short (fun hok => (pack87_isPacked (Nat.not_lt.1 hok)).imp fun _ => And.left)
      bytes h
  | decode =>
    rw [exec_decode (hin rfl)] at h
    simpa using orRaise_malformed_iff (decodePatch_malformed _) (decodePatch_wellFormed _) patch h
  | decodeInbound =>
    rw [exec_decodeInbound (hin rfl)] at h
    simpa using orRaise_malformed_iff (decodeInbound_malformed _) (decodeInbound_wellFormed _) patch h
  | crc32 | frame _ | encodePayload | toSigned | toUnsigned | encodeBurst =>
    simpa using avoids_malformedBuffer (by simp) hs' (fun hi => (hin hi).inRange) t h

end Sys2Proof.Machine
end

section
/-! 45_framer.md R209, R210; 70_reset_and_hazards.md R278: the three messages of a burst as the host transmits them. -/

namespace Sys2Proof.Machine

theorem readBytes_append {m : Memory} {a j k : Nat} {xs ys : List Byte} (hx : m.readBytes a j = some xs)
    (hy : m.readBytes (a + j) k = some ys) : m.readBytes a (j + k) = some (xs ++ ys) := by
  rw [readBytes_eq_some] at hx hy ⊢
  obtain ⟨rfl, hx⟩ := hx
  obtain ⟨rfl, hy⟩ := hy
  refine ⟨List.length_append, fun i hi => ?_⟩
  rw [List.getElem_append]
  split
  next hlt => exact hx i hlt
  next hge =>
    rw [List.length_append] at hi
    rw [← hy (i - xs.length) (by omega)]
    congr 1
    omega

/-- 10_state.md R30: the messages lie back to back from OBUF[0] on. -/
theorem readBytes_burstMessages {t : State} {m1 m2 m3 : List Byte} (h1 : t.burstMessage 0 = some m1)
    (h2 : t.burstMessage 1 = some m2) (h3 : t.burstMessage 2 = some m3) :
    t.mem.readBytes obufBase (t.msgLen0.toNat + t.msgLen1.toNat + t.msgLen2.toNat) = some (m1 ++ m2 ++ m3) :=
  readBytes_append (readBytes_append h1 h2) (by rwa [← Nat.add_assoc])

theorem burstMessage_length {t : State} {m1 m2 m3 : List Byte} (h1 : t.burstMessage 0 = some m1)
    (h2 : t.burstMessage 1 = some m2) (h3 : t.burstMessage 2 = some m3) :
    m1.length = t.msgLen0.toNat ∧ m2.length = t.msgLen1.toNat ∧ m3.length = t.msgLen2.toNat :=
  ⟨(readBytes_eq_some.1 h1).1, (readBytes_eq_some.1 h2).1, (readBytes_eq_some.1 h3).1⟩

theorem encodeBurst_outLen {s t : State} (h4 : 4 ≤ s.nameLen.toNat) (h8 : s.nameLen.toNat ≤ 8)
    (h : exec .encodeBurst s = .next t) :
    t.outLen.toNat = t.msgLen0.toNat + t.msgLen1.toNat + t.msgLen2.toNat := by
  obtain rfl := Host.Outcome.next.inj ((exec_encodeBurst_stores h4 h8).symm.trans h)
  rw [storeBurst_complete_eq h4 h8]
  dsimp only
  split <;> rfl

theorem frameMessage_take {header : List Byte} (hh : header.length = 8) (seq : Byte) (body : List Byte) :
    (frameMessage header seq body).take 9 = header ++ [seq] := by
  rw [frameMessage_eq hh, List.append_assoc, List.take_left' (framePrefix_length hh seq)]

theorem frameMessage_getLast? (header : List Byte) (seq : Byte) (body : List Byte) :
    (frameMessage header seq body).getLast? = some 0xF7 := List.getLast?_concat

/-- Settles O51: the messages the host finds lie back to back up to OUT_LEN, and each is a frame of R201. -/
theorem burstIsTransmittedInOrder : Obligations.BurstIsTransmittedInOrder := by
  intro s t x1 x2 x3 h4 h8 h hx
  obtain ⟨hlen1, hlen2, hlen3⟩ := burstMessage_length hx.first hx.second hx.third
  have hobuf := readBytes_burstMessages hx.first hx.second hx.third
  rw [← encodeBurst_outLen h4 h8 h] at hobuf
  refine ⟨hobuf, hlen1, hlen2, hlen3, ?_⟩
  obtain ⟨hm1, hm2, hm3, -⟩ := burstMessage_encodeBurst h4 h8 h
  have hframe1 : x1.bytes = s.burst.m1 := Option.some.inj (hx.first.symm.trans hm1)
  have hframe2 : x2.bytes = s.burst.m2 := Option.some.inj (hx.second.symm.trans hm2)
  have hframe3 : x3.bytes = s.burst.m3 := Option.some.inj (hx.third.symm.trans hm3)
  rw [hframe1, hframe2, hframe3, burst_m1_eq, burst_m2_eq h8, burst_m3_eq]
  simp only [frameMessage_take (header_length s), frameMessage_getLast?, and_self]

end Sys2Proof.Machine
end

section
/-! 70_reset_and_hazards.md R271 to R277: the reset input, and a host that respects the hazards of a pending command. -/

namespace Sys2Proof.Machine

/-- Settles O17: the bus cycle's one event is the reset input, whatever is pending. -/
theorem resetInputAbandonsThePendingCommand : Obligations.ResetInputAbandonsThePendingCommand := by
  intro s rest hhost hturn
  rw [step_busCycle hturn, busCycle_cons hhost]
  rfl

theorem inPlaces_mono {t : Target} {ps qs : List Place} (h : ps ⊆ qs) (ht : inPlaces t ps = true) :
    inPlaces t qs = true := by
  unfold inPlaces at ht ⊢
  cases hp : t.place with
  | none => rw [hp] at ht; cases ht
  | some p => rw [hp] at ht; exact List.contains_iff_mem.2 (h (List.contains_iff_mem.1 ht))

/-- 10_state.md R42: the operands of all commands are the places that R276 protects. -/
theorem pendingOperands_subset (s : State) :
    s.pendingPlaces Instr.operands ⊆ [.inLen, .ibuf, .convIn, .nameLen, .name, .fields] := by
  unfold State.pendingPlaces
  split
  next i _ =>
    split
    · cases i <;> simp [Instr.operands]
    · exact List.nil_subset _
  · exact List.nil_subset _

section Unprotected

variable {t : Target} (ht : protectedWhileBusy t = false)

include ht

theorem inPlaces_pendingOperands_unprotected (s : State) : inPlaces t (s.pendingPlaces Instr.operands) = false := by
  obtain ⟨-, hplace⟩ := Bool.or_eq_false_iff.1 ht
  refine Bool.eq_false_iff.2 fun h => ?_
  rw [inPlaces_mono (pendingOperands_subset s) h] at hplace
  cases hplace

/-- 10_state.md R22, 20_memory.md R68: a target that is neither CMD nor an operand ignores writes. -/
theorem writeTarget_unprotected (s : State) (w : Width) (d : Word) : s.writeTarget w t d = s := by
  cases t with
  | reg r =>
    cases r with
    | cmd | inLen | convIn | nameLen | nameW0 | nameW1 | field _ => nomatch ht
    | _ => rfl
  | ibuf _ => nomatch ht
  | obuf _ | rom _ => rfl

end Unprotected

section Busy

variable {s : State} (hb : s.status.busy = true)

include hb

/-- R276, R277: while BUSY = 1 a write that respects the hazards is answered and does nothing else. -/
theorem hostWrite_respectful {w : Width} {a : Half} (h : writeRespects s w a = true) (d : Word) :
    ∃ rs, s.hostWrite w a d = { s with resp := rs } := by
  cases ht : busTarget s.par.1 w a with
  | none => exact ⟨_, hostWrite_busError ht d⟩
  | some t =>
    have hp : protectedWhileBusy t = false := by simpa [writeRespects, ht, hb] using h
    rw [hostWrite_target ht, writeTarget_unprotected hp, inPlaces_pendingOperands_unprotected hp, acknowledge_false]
    exact ⟨_, rfl⟩

theorem hostEvent_respectful {op : BusOp} (h : respectsHazards s op = true) (hreset : op ≠ .reset) :
    ∃ hs rs n, s.hostEvent op = { s with host := hs, resp := rs, draws := n } := by
  cases op with
  | write w a d =>
    obtain ⟨rs, he⟩ := hostWrite_respectful hb h d
    exact ⟨_, rs, _, he⟩
  | writeLast w a =>
    obtain ⟨rs, he⟩ := hostWrite_respectful (s := { s with draws := s.draws + 1 }) hb h s.lastData
    exact ⟨_, rs, _, he⟩
  | read _ _ => exact ⟨_, _, _, rfl⟩
  | poll => exact ⟨_, _, _, if_pos hb⟩
  | loopback => rw [respectsHazards, hb] at h; cases h
  | reset => exact absurd rfl hreset

end Busy

/-- R275: a read of no result of the pending command gives the current value, or a bus error. -/
theorem busRead_respectful {s : State} {w : Width} {a : Half} (h : respectsHazards s (.read w a) = true) :
    s.busRead w a = match busTarget s.par.1 w a with | none => .busError | some g => .data (s.readTarget w g) := by
  cases ht : busTarget s.par.1 w a with
  | none => simp [State.busRead, ht]
  | some t =>
    have hr : inPlaces t (s.pendingPlaces Instr.results) = false := by simpa [respectsHazards, ht] using h
    simp [State.busRead, ht, hr]

/-- Settles O9: of the events that respect the hazards only writes could reach the block's state, and those are ignored. -/
theorem respectfulHostLeavesThePendingCommandAlone : Obligations.RespectfulHostLeavesThePendingCommandAlone := by
  intro s op hb h hreset
  obtain ⟨hs, rs, n, he⟩ := hostEvent_respectful hb h hreset
  refine ⟨⟨_, he, rfl⟩, ?_⟩
  rintro w a rfl
  exact congrArg some (busRead_respectful h)

end Sys2Proof.Machine
end
